-- ==== Sys2Proof/Word.lean ====
section
/-! DEFINITION. The word types of CKBO (spec/00_scope.md R8: every register value is an unsigned bit vector, a byte
is 8 bits; spec/30_encoding.md R46: a command is one 32-bit word; spec/20_memory.md R30: an offset is 24 bits). -/

namespace Sys2Proof

/-- A byte (R8). -/
abbrev Byte := BitVec 8

/-- A command word (R46). -/
abbrev CmdWord := BitVec 32

/-- A buffer offset as the registers hold it (R30). -/
abbrev Offset := BitVec 24

end Sys2Proof
end

