-- ==== Sys2Proof/Config.lean ====
section
/-! DEFINITION. What is fixed for one CKBO: the parameters the document fixes (spec/00_scope.md R6), and the free
constants, with no body, for the parameters and the buffer contents the spec leaves open (R7, spec/10_state.md R25). -/

namespace Sys2Proof

/-- The legal operand widths `LEGAL_W` = 1, 2, 4, 8 bytes, as the closed set of spec/41_byteorder.md R98. -/
inductive Width where
  | w1 | w2 | w4 | w8
  deriving DecidableEq, Repr

/-- The struct kinds whose multi-byte fields a host normalizes: the headers (R94), the trailer (R95) and the element
types the document names (R97). The preamble has no field table (R96 d). -/
inductive StructKind where
  | requestHeader | responseHeader | trailer
  | accessPoint | gsmUmtsCell | cdmaCell | lteCell | gpsFix | bluetoothBeacon | locationResult
  deriving DecidableEq, Repr

namespace Config

/-- `SEED`: start value of both accumulators (R6, R18). -/
def seed : BitVec 16 := 0x00FF#16

/-- `CHUNK_MAX`: most bytes absorbed between two folds (R6). -/
def chunkMax : Nat := 20

/-- `HDR_REQ`: bytes in a request frame header (R6). -/
def hdrReq : Nat := 24

/-- `HDR_RSP`: bytes in a response frame header (R6). -/
def hdrRsp : Nat := 20

/-- `TRAILER`: bytes in the checksum trailer (R6). -/
def trailerBytes : Nat := 2

/-- `HOST_BE` of the block whose reset state is `State.reset`: true for a big-endian host. Free (R7); log entry 2.
Every other state carries its own strap in its field `cfg`. -/
opaque hostBE : Bool

/-- `BUF_SIZE` of the block whose reset state is `State.reset`: a number from 0 to 2^24. Free (R7); log entry 3.
Every other state carries its own size in its field `bufSize`. -/
opaque bufSize : Fin (2 ^ 24 + 1)

/-- What a byte of `BUF` that nothing has written holds: any value (R25, spec/93_implementation_defined.md I14).
Free; log entry 4. -/
opaque bufInit : Nat → Byte

/-- The layout behind `FieldTable(kind)` for the kinds whose table the spec leaves open (R7, R97): field by field, how
many bytes lie between the end of the field before and this one, and this one's width. Given so, the fields of a table do
not overlap (R93). Free; log entry 9. -/
opaque openLayout : StructKind → List (Nat × Width)

end Config

end Sys2Proof
end

