-- ==== Sys2Proof/Syntax.lean ====
section
/-! DEFINITION. The 18 commands of CKBO (spec/30_encoding.md R52; spec/opcode_table.json), one constructor per row, in
the table's order. An operand's type is its field's width (R47 to R51), so every term is a command that has a word. -/

namespace Sys2Proof

/-- A command. The width field `w` is the byte count as written, 0 to 255: R54 decodes every value of it. -/
inductive Instr where
  | nop
  | setoff (imm24 : BitVec 24)
  | setlen (imm24 : BitVec 24)
  | setd (k : BitVec 2) (imm16 : BitVec 16)
  | ckinit
  | ckb (imm8 : BitVec 8)
  | ckabs
  | ckfin
  | ckrange
  | ckput
  | ckvfy
  | bswap (w : BitVec 8)
  | norm (w : BitVec 8)
  | normm (w : BitVec 8)
  | ldn (w : BitVec 8)
  | stn (w : BitVec 8)
  | ldf (w : BitVec 8)
  | stf (w : BitVec 8)
  deriving DecidableEq, Repr

end Sys2Proof
end

