-- ==== Sys2Proof/WellFormed.lean ====
section
/-! DEFINITION. What makes a command word legal (spec/30_encoding.md R52, R55), an assembler operand acceptable (R57)
and a width operand legal (R54). Every term of `Instr` is well formed by its operand types; these checks are for what
is not yet one: a raw word, and the numbers of a source line. -/

namespace Sys2Proof

/-- One row of the opcode map: a word `c` is the command exactly when `c & mask = value` (R52). -/
structure OpcodeRow where
  mnemonic : String
  value : CmdWord
  mask : CmdWord
  deriving DecidableEq, Repr

/-- The opcode map of R52, row by row. -/
def opcodeRows : List OpcodeRow :=
  [ ⟨"NOP", 0x00000000#32, 0xFFFFFFFF#32⟩,
    ⟨"SETOFF", 0x01000000#32, 0xFF000000#32⟩,
    ⟨"SETLEN", 0x02000000#32, 0xFF000000#32⟩,
    ⟨"SETD", 0x03000000#32, 0xFFFC0000#32⟩,
    ⟨"CKINIT", 0x10000000#32, 0xFFFFFFFF#32⟩,
    ⟨"CKB", 0x11000000#32, 0xFFFFFF00#32⟩,
    ⟨"CKABS", 0x12000000#32, 0xFFFFFFFF#32⟩,
    ⟨"CKFIN", 0x13000000#32, 0xFFFFFFFF#32⟩,
    ⟨"CKRANGE", 0x14000000#32, 0xFFFFFFFF#32⟩,
    ⟨"CKPUT", 0x15000000#32, 0xFFFFFFFF#32⟩,
    ⟨"CKVFY", 0x16000000#32, 0xFFFFFFFF#32⟩,
    ⟨"BSWAP", 0x20000000#32, 0xFFFFFF00#32⟩,
    ⟨"NORM", 0x21000000#32, 0xFFFFFF00#32⟩,
    ⟨"NORMM", 0x22000000#32, 0xFFFFFF00#32⟩,
    ⟨"LDN", 0x23000000#32, 0xFFFFFF00#32⟩,
    ⟨"STN", 0x24000000#32, 0xFFFFFF00#32⟩,
    ⟨"LDF", 0x25000000#32, 0xFFFFFF00#32⟩,
    ⟨"STF", 0x26000000#32, 0xFFFFFF00#32⟩ ]

/-- `c` is a word of this row. -/
def OpcodeRow.fits (r : OpcodeRow) (c : CmdWord) : Bool := c &&& r.mask == r.value

/-- A command word is legal when some row of the opcode map fits it, and illegal otherwise (R52, R55). -/
def legalWord (c : CmdWord) : Bool := opcodeRows.any fun r => r.fits c

/-- `W` spells a legal width (R54): 1, 2, 4 or 8. -/
def legalWidth (w : BitVec 8) : Bool := w == 1#8 || w == 2#8 || w == 4#8 || w == 8#8

/-- The command's width operand, where it has one, is legal: a command with any other width is still a command (R54)
and ends in `Fatal(BadWidth)` (R81). -/
def Instr.widthLegal : Instr → Bool
  | .bswap w | .norm w | .normm w | .ldn w | .stn w | .ldf w | .stf w => legalWidth w
  | .nop | .setoff _ | .setlen _ | .setd _ _ | .ckinit | .ckb _ | .ckabs | .ckfin | .ckrange | .ckput | .ckvfy => true

/-- The operand ranges of the assembler (R57): a number of a source line that fits its field. -/
def operandFits (bits n : Nat) : Bool := n < 2 ^ bits

/-- `SETOFF n` of a source line (R57). -/
def asmSetoff (n : Nat) : Option Instr := if operandFits 24 n then some (.setoff (BitVec.ofNat 24 n)) else none

/-- `SETLEN n` of a source line (R57). -/
def asmSetlen (n : Nat) : Option Instr := if operandFits 24 n then some (.setlen (BitVec.ofNat 24 n)) else none

/-- `SETD k, n` of a source line (R57). -/
def asmSetd (k n : Nat) : Option Instr :=
  if operandFits 2 k && operandFits 16 n then some (.setd (BitVec.ofNat 2 k) (BitVec.ofNat 16 n)) else none

/-- `CKB n` of a source line (R57). -/
def asmCkb (n : Nat) : Option Instr := if operandFits 8 n then some (.ckb (BitVec.ofNat 8 n)) else none

/-- A width command `BSWAP n`, `NORM n`, ... of a source line (R57): every `n` from 0 to 255, the fatal widths too. -/
def asmWidth (command : BitVec 8 → Instr) (n : Nat) : Option Instr :=
  if operandFits 8 n then some (command (BitVec.ofNat 8 n)) else none

end Sys2Proof
end

