-- ==== Sys2Proof/Decode.lean ====
section
/-! DEFINITION. The decoder (spec/30_encoding.md R59), total on every 32-bit word and rejecting by name, and after it the
encoder, written from the formats R47 to R51 and the opcode map R52. -/

namespace Sys2Proof

/-- Why a word is no command (R55). -/
inductive Illegal where
  /-- `OPC` is not one of the 18 values of R52. -/
  | unassignedOpcode
  /-- A bit that the word's format marks "must be 0" is 1. -/
  | reservedBitSet
  deriving DecidableEq, Repr

/-- `OPC`, bits 31:24 of every format (R46). -/
def opcodeOf (c : CmdWord) : BitVec 8 := c.extractLsb' 24 8

/-- Format N (R47): bits 23:0 must be 0. -/
def decodeN (c : CmdWord) (i : Instr) : Except Illegal Instr :=
  if c.extractLsb' 0 24 = 0#24 then .ok i else .error .reservedBitSet

/-- Format I (R48): `IMM24` in bits 23:0. -/
def decodeI (c : CmdWord) (f : BitVec 24 → Instr) : Except Illegal Instr := .ok (f (c.extractLsb' 0 24))

/-- Format K (R49): bits 23:18 must be 0, `K` in bits 17:16, `IMM16` in bits 15:0. -/
def decodeK (c : CmdWord) (f : BitVec 2 → BitVec 16 → Instr) : Except Illegal Instr :=
  if c.extractLsb' 18 6 = 0#6 then .ok (f (c.extractLsb' 16 2) (c.extractLsb' 0 16)) else .error .reservedBitSet

/-- Formats B and W (R50, R51): bits 23:8 must be 0, the operand in bits 7:0. -/
def decodeB (c : CmdWord) (f : BitVec 8 → Instr) : Except Illegal Instr :=
  if c.extractLsb' 8 16 = 0#16 then .ok (f (c.extractLsb' 0 8)) else .error .reservedBitSet

/-- The decoder of R59. -/
def decode (c : CmdWord) : Except Illegal Instr :=
  match (opcodeOf c).toNat with
  | 0x00 => decodeN c .nop
  | 0x01 => decodeI c .setoff
  | 0x02 => decodeI c .setlen
  | 0x03 => decodeK c .setd
  | 0x10 => decodeN c .ckinit
  | 0x11 => decodeB c .ckb
  | 0x12 => decodeN c .ckabs
  | 0x13 => decodeN c .ckfin
  | 0x14 => decodeN c .ckrange
  | 0x15 => decodeN c .ckput
  | 0x16 => decodeN c .ckvfy
  | 0x20 => decodeB c .bswap
  | 0x21 => decodeB c .norm
  | 0x22 => decodeB c .normm
  | 0x23 => decodeB c .ldn
  | 0x24 => decodeB c .stn
  | 0x25 => decodeB c .ldf
  | 0x26 => decodeB c .stf
  | _ => .error .unassignedOpcode

/-- The opcode value of each command (R52). -/
def Instr.opcode : Instr → BitVec 8
  | .nop => 0x00#8
  | .setoff _ => 0x01#8
  | .setlen _ => 0x02#8
  | .setd _ _ => 0x03#8
  | .ckinit => 0x10#8
  | .ckb _ => 0x11#8
  | .ckabs => 0x12#8
  | .ckfin => 0x13#8
  | .ckrange => 0x14#8
  | .ckput => 0x15#8
  | .ckvfy => 0x16#8
  | .bswap _ => 0x20#8
  | .norm _ => 0x21#8
  | .normm _ => 0x22#8
  | .ldn _ => 0x23#8
  | .stn _ => 0x24#8
  | .ldf _ => 0x25#8
  | .stf _ => 0x26#8

/-- Bits 23:0 of each command's word (R47 to R51): its operand fields, and 0 where a bit must be 0. -/
def Instr.operandBits : Instr → BitVec 24
  | .nop | .ckinit | .ckabs | .ckfin | .ckrange | .ckput | .ckvfy => 0#24
  | .setoff imm | .setlen imm => imm
  | .setd k imm => 0#6 ++ k ++ imm
  | .ckb imm => 0#16 ++ imm
  | .bswap w | .norm w | .normm w | .ldn w | .stn w | .ldf w | .stf w => 0#16 ++ w

/-- The word of a command (R46). -/
def encode (i : Instr) : CmdWord := i.opcode ++ i.operandBits

/-- The instruction the decoder reads from the bits `w`, numbered as spec/opcode_table.json numbers them. Every command
is one 32-bit word handed over whole (R46), so bits above `nbits` are 0 and there is no byte order to undo. -/
def decodeTableWord (nbits w : Nat) : Option Instr :=
  (decode (BitVec.ofNat 32 (w % 2 ^ nbits))).toOption

end Sys2Proof
end

