-- ==== Sys2Proof/Machine/State.lean ====
section
/-! DEFINITION. The state of CKBO (spec/10_state.md R13), plain data, with the parameter `BUF_SIZE` (spec/00_scope.md R7),
the host's remaining actions (R26, spec/70_reset_and_hazards.md R132) and the index `pc` (R17); the error codes and fatal
causes (spec/60_exceptions.md R107, R108); the reasons a step can stop; the state after reset (R29). -/

namespace Sys2Proof.Machine

/-- The contents of `BUF` that something has written: (address, byte) cells, addresses strictly rising
(`Memory.wf`). At this level an address with no cell holds no value; `State.bufByte` says what it reads as. -/
abbrev Memory := List Host.Cell

/-- The error names of R107. `unsupportedMessageType` to `transportFailure` have reserved numbers and are never raised. -/
inductive ErrCode where
  | bufferTooSmall | checksumMismatch
  | unsupportedMessageType | unknownRecordTag | unalignedCipherInput | transportFailure
  deriving DecidableEq, Repr

/-- The fatal causes of R108. `nullBuffer` is reserved and never raised (R121). -/
inductive FatalCause where
  | badWidth | illegalCommand | nullBuffer
  deriving DecidableEq, Repr

/-- What the host does between commands (R132). Its reads of registers and of `BUF` change nothing and are the
functions `State.statusPort` and `State.hostRead`. -/
inductive HostAction where
  /-- Presents one command word on the command port (spec/70_reset_and_hazards.md R131). -/
  | command (c : CmdWord)
  /-- Writes one byte of `BUF` (spec/20_memory.md R43). -/
  | writeByte (a : Offset) (b : Byte)
  /-- Asserts reset (R122). -/
  | reset
  deriving DecidableEq, Repr

/-- The state. The first ten fields are the whole state of the block (R13); the last three are the model's: the
parameter `BUF_SIZE` and the input of a run. -/
structure State where
  /-- `D`, the data register (R14). -/
  d : BitVec 64
  /-- `OFF`, the buffer offset register (R15). -/
  off : Offset
  /-- `LEN`, the length register (R16). -/
  len : BitVec 24
  /-- `A1`, accumulator 1 (R18). -/
  a1 : BitVec 16
  /-- `A2`, accumulator 2 (R18). -/
  a2 : BitVec 16
  /-- `CNT`, bytes absorbed since the last fold or reseed (R19). -/
  cnt : BitVec 5
  /-- `CK`, the checksum result (R20). -/
  ck : BitVec 16
  /-- `ST`, the status register: FATAL bit 7, FCAUSE bits 6:4, ERR bits 3:0 (R21). -/
  st : BitVec 8
  /-- `CFG`, the read-only configuration register: HOST_BE is bit 0 (R24). -/
  cfg : BitVec 8
  /-- `BUF`, what has been written of the buffer (R25). -/
  buf : Memory
  /-- `BUF_SIZE`, how many bytes `BUF` has: a parameter, which no step changes (R7, R30). -/
  bufSize : Nat
  /-- The host's remaining actions, the next one first: the input of a run (R26). -/
  pending : List HostAction
  /-- The index into the host's list of command words: how many have been taken (R17). -/
  pc : Nat
  deriving DecidableEq, Repr

/-- Why a step can stop. No command faults: errors and fatal conditions are next states (R106, R110, R112). -/
inductive Fault where
  /-- Raised by the host action `writeByte` at an offset of `BUF_SIZE` or more: `BUF` has no such byte (R30). Safe. -/
  | noSuchByte
  deriving DecidableEq, Repr

/-- Why a step can be refused. Every command of the opcode table has its meaning, so nothing raises one. -/
inductive Refusal where
  /-- For an arm of `exec` with no meaning yet: none is left. Safe. -/
  | notModelled (mnemonic : String)
  deriving DecidableEq, Repr

/-- The state right after reset (R29), nothing in `BUF` written (R25), the host about to do nothing. `HOST_BE` and
`BUF_SIZE` are free (log entries 2 and 3). -/
def State.reset : State where
  d := 0
  off := 0
  len := 0
  a1 := 0x00FF#16
  a2 := 0x00FF#16
  cnt := 0
  ck := 0xFFFF#16
  st := 0x00#8
  cfg := 0#7 ++ BitVec.ofBool Config.hostBE
  buf := []
  bufSize := Config.bufSize.val
  pending := []
  pc := 0

end Sys2Proof.Machine
end

