-- ==== Sys2Proof/Machine/Flags.lean ====
section
/-! DEFINITION. The status register `ST` (spec/10_state.md R21), the codes its fields take (spec/60_exceptions.md R107,
R108), and the configuration bit `HOST_BE` (R24). CKBO has no arithmetic flag (after R23). -/

namespace Sys2Proof.Machine

/-- The value of `ST.ERR` for each error name (R107). -/
def ErrCode.code : ErrCode → BitVec 4
  | .bufferTooSmall => 1#4
  | .checksumMismatch => 2#4
  | .unsupportedMessageType => 3#4
  | .unknownRecordTag => 4#4
  | .unalignedCipherInput => 5#4
  | .transportFailure => 6#4

/-- The value of `ST.FCAUSE` for each fatal cause (R108). -/
def FatalCause.code : FatalCause → BitVec 3
  | .badWidth => 1#3
  | .illegalCommand => 2#3
  | .nullBuffer => 3#3

/-- `ST.FATAL`, bit 7 (R21). -/
def stFatal (st : BitVec 8) : Bool := st.getLsbD 7

/-- `ST.FCAUSE`, bits 6:4 (R21). -/
def stCause (st : BitVec 8) : BitVec 3 := st.extractLsb' 4 3

/-- `ST.ERR`, bits 3:0 (R21). -/
def stErr (st : BitVec 8) : BitVec 4 := st.extractLsb' 0 4

/-- `ST.ERR <- e`, the other fields kept (R22, R110). -/
def stWithErr (st : BitVec 8) (e : BitVec 4) : BitVec 8 := st.extractLsb' 4 4 ++ e

/-- `ST.FATAL <- 1; ST.FCAUSE <- c`, `ST.ERR` kept (R112). -/
def stWithFatal (st : BitVec 8) (c : BitVec 3) : BitVec 8 := 1#1 ++ c ++ stErr st

/-- `ST.FATAL` of a state. -/
def State.isFatal (s : State) : Bool := stFatal s.st

/-- `CFG.HOST_BE` (R24): true when the host is big-endian. -/
def State.hostBE (s : State) : Bool := s.cfg.getLsbD 0

/-- `CFG` as it reads: `HOST_BE` in bit 0, bits 7:1 as 0 (R24). -/
def State.readCfg (s : State) : BitVec 8 := 0#7 ++ BitVec.ofBool s.hostBE

end Sys2Proof.Machine
end

