-- ==== Sys2Proof/Machine/Operands.lean ====
section
/-! DEFINITION. Operand forms: the width field (spec/30_encoding.md R54), numbers as byte lists (spec/00_scope.md R9),
the swap (R10, spec/41_byteorder.md R80), and the parts of `D` an operand uses (spec/10_state.md R14, R53). -/

namespace Sys2Proof

/-- A legal width in bytes. -/
def Width.bytes : Width → Nat
  | .w1 => 1
  | .w2 => 2
  | .w4 => 4
  | .w8 => 8

/-- The legal width a `W` field spells, if it spells one (R54, R81). -/
def Width.ofField (w : BitVec 8) : Option Width :=
  if w = 1#8 then some .w1
  else if w = 2#8 then some .w2
  else if w = 4#8 then some .w4
  else if w = 8#8 then some .w8
  else none

namespace Machine

/-- `le(bs)`: the number whose byte `i` is `bs[i]` (R9). -/
def leNat : List Byte → Nat
  | [] => 0
  | b :: bs => b.toNat + 256 * leNat bs

/-- `be(bs)`: the number whose byte `n-1-i` is `bs[i]` (R9). -/
def beNat (bs : List Byte) : Nat := leNat bs.reverse

/-- `bytes_le(v, n)`: the `n` bytes of `v`, the least significant first (R9). -/
def bytesLe (v : Nat) : Nat → List Byte
  | 0 => []
  | n + 1 => BitVec.ofNat 8 v :: bytesLe (v / 256) n

/-- `bytes_be(v, n)`: the `n` bytes of `v`, the most significant first (R9). -/
def bytesBe (v n : Nat) : List Byte := (bytesLe v n).reverse

/-- `bswap_w(v) = le(rev(bytes_le(v, w)))` (R10, R80). -/
def bswapNat (w v : Nat) : Nat := leNat (bytesLe v w).reverse

/-- `normalize_w(v)`: `bswap_w(v)` when `HOST_BE = 1`, `v` when `HOST_BE = 0` (R10, R80). -/
def normalizeNat (hostBE : Bool) (w v : Nat) : Nat := if hostBE then bswapNat w v else v

/-- `D[8w-1:0]`, the operand of a command of width `w` (R14). -/
def lowBytes (w : Nat) (d : BitVec 64) : Nat := d.toNat % 2 ^ (8 * w)

/-- `D[8w-1:0] <- v`, `D[63:8w]` unchanged (R82, R83). -/
def withLowBytes (w : Nat) (d : BitVec 64) (v : Nat) : BitVec 64 :=
  BitVec.ofNat 64 (d.toNat / 2 ^ (8 * w) * 2 ^ (8 * w) + v % 2 ^ (8 * w))

/-- `D[16k+15:16k] <- imm`, the other 48 bits unchanged (R53, R103). -/
def withLane (k : BitVec 2) (d : BitVec 64) (imm : BitVec 16) : BitVec 64 :=
  (d &&& ~~~(0xFFFF#64 <<< (16 * k.toNat))) ||| (imm.setWidth 64 <<< (16 * k.toNat))

end Machine

end Sys2Proof
end

