-- ==== Sys2Proof/Machine/Ops.lean ====
section
/-! DEFINITION. The named operations over registers and the buffer: writing each register, the buffer's bytes, native
and wire accesses (spec/20_memory.md R34, R35), the bounds test (R37), the width test (spec/41_byteorder.md R81), how a
command ends (spec/60_exceptions.md R109, R110, R112), and what the host does (spec/70_reset_and_hazards.md R122, R131). -/

namespace Sys2Proof.Machine

/-! ### Writing a register -/

/-- `D <- v`. -/
def State.setD (s : State) (v : BitVec 64) : State := { s with d := v }

/-- `OFF <- v`. -/
def State.setOff (s : State) (v : Offset) : State := { s with off := v }

/-- `LEN <- v`. -/
def State.setLen (s : State) (v : BitVec 24) : State := { s with len := v }

/-- `A1 <- x; A2 <- y; CNT <- c`. -/
def State.setAcc (s : State) (x y : BitVec 16) (c : BitVec 5) : State := { s with a1 := x, a2 := y, cnt := c }

/-- `CK <- v`. -/
def State.setCk (s : State) (v : BitVec 16) : State := { s with ck := v }

/-- `ST <- v`. -/
def State.setSt (s : State) (v : BitVec 8) : State := { s with st := v }

/-- Replaces what is written of `BUF`. -/
def State.setBuf (s : State) (m : Memory) : State := { s with buf := m }

/-- Replaces the host's remaining actions. -/
def State.setPending (s : State) (q : List HostAction) : State := { s with pending := q }

/-- Replaces the index of the next command word. -/
def State.setPc (s : State) (n : Nat) : State := { s with pc := n }

/-! ### The buffer's bytes -/

/-- The byte written last at address `a`, if one was. -/
def Memory.get? : Memory → Nat → Option Byte
  | [], _ => none
  | (b, v) :: m, a => if b = a then some v else Memory.get? m a

/-- Writes one byte, keeping the cells in rising order of address. -/
def Memory.set : Memory → Nat → Byte → Memory
  | [], a, v => [(a, v)]
  | (b, w) :: m, a, v =>
    if a < b then (a, v) :: (b, w) :: m
    else if a = b then (a, v) :: m
    else (b, w) :: Memory.set m a v

/-- The canonical form of a memory: addresses strictly rising, so one cell an address. -/
def Memory.wf : Memory → Bool
  | [] => true
  | [_] => true
  | (a, _) :: (b, w) :: m => decide (a < b) && Memory.wf ((b, w) :: m)

/-- `BUF[a]` (spec/00_scope.md R9). A byte that nothing has written holds any value (spec/10_state.md R25): the free
value `Config.bufInit a` (log entry 4). -/
def State.bufByte (s : State) (a : Nat) : Byte := (s.buf.get? a).getD (Config.bufInit a)

/-- `BUF[a] <- b`. -/
def State.setByte (s : State) (a : Nat) (b : Byte) : State := s.setBuf (s.buf.set a b)

/-- `MemRead(a, n)`: the bytes `BUF[a]` ... `BUF[a+n-1]` in that order (spec/00_scope.md R9). R9 needs
`a + n <= BUF_SIZE`, which every command tests first (R37); beyond it the bytes are free ones: DESIGN CHOICE, log entry 13. -/
def State.memRead (s : State) (a : Nat) : Nat → List Byte
  | 0 => []
  | n + 1 => s.bufByte a :: s.memRead (a + 1) n

/-- `MemWrite(a, n, bs)`: the list `bs` into `BUF[a]` ... in that order (spec/00_scope.md R9, R39), under the
same premise; beyond it the bytes are listed all the same: DESIGN CHOICE, log entry 13. -/
def State.memWrite (s : State) (a : Nat) : List Byte → State
  | [] => s
  | b :: bs => (s.setByte a b).memWrite (a + 1) bs

/-- `NativeRead(a, w)` (R34): what the host's own load of a `w`-byte number gives. -/
def State.nativeRead (s : State) (a w : Nat) : Nat :=
  if s.hostBE then beNat (s.memRead a w) else leNat (s.memRead a w)

/-- `NativeWrite(a, w, v)` (R34): what the host's own store of a `w`-byte number does. -/
def State.nativeWrite (s : State) (a w v : Nat) : State :=
  s.memWrite a (if s.hostBE then bytesBe v w else bytesLe v w)

/-- `WireRead(a, w) = normalize_w(NativeRead(a, w))` (R35). -/
def State.wireRead (s : State) (a w : Nat) : Nat := normalizeNat s.hostBE w (s.nativeRead a w)

/-- `WireWrite(a, w, v) = NativeWrite(a, w, normalize_w(v))` (R35). -/
def State.wireWrite (s : State) (a w v : Nat) : State := s.nativeWrite a w (normalizeNat s.hostBE w v)

/-! ### How a command ends -/

/-- How the body of a command ends (spec/60_exceptions.md R106). -/
inductive Ending where
  /-- Nothing was raised; the state holds the command's effects. -/
  | done (s : State)
  /-- `raise Err(e)`; the state holds what the command changed before raising it. -/
  | err (e : ErrCode) (s : State)
  /-- `raise Fatal(c)`. -/
  | fatal (c : FatalCause)
  deriving DecidableEq, Repr

/-- `raise Err(e)` and success alike write `ST.ERR` and leave the rest (R22, R110). -/
def State.setErr (s : State) (e : BitVec 4) : State := s.setSt (stWithErr s.st e)

/-- `raise Fatal(c)`: FATAL and FCAUSE written, everything else as before the command (R112). This is all that
"taking an exception" is on CKBO: nothing is saved, no mode changes, there is no handler (R114). -/
def State.raiseFatal (s : State) (c : FatalCause) : State := s.setSt (stWithFatal s.st c.code)

/-- The state after a command that executed from `s` and ended so (R109 lines 2 to 4, R110, R112). -/
def State.conclude (s : State) : Ending → State
  | .done t => t.setErr 0#4
  | .err e t => t.setErr e.code
  | .fatal c => s.raiseFatal c

/-- The wrapper around every command (R109): discarded while `ST.FATAL = 1`, else it ends as `e` says. Always a next
state (log entry 1). -/
def State.issue (s : State) (e : Ending) : Host.Outcome State Fault Refusal :=
  .next (if s.isFatal then s else s.conclude e)

/-- The width test (R81), first of a command's tests: a `W` that spells no legal width is `Fatal(BadWidth)`. -/
def withWidth (w : BitVec 8) (body : Width → Ending) : Ending :=
  match Width.ofField w with
  | none => .fatal .badWidth
  | some v => body v

/-- The bounds test (R37): the bytes `a` to `a + n - 1` must lie in `BUF`, else `Err(BufferTooSmall)` with nothing
changed. Natural numbers, so no sum wraps. -/
def State.inBounds (s : State) (a n : Nat) (body : State → Ending) : Ending :=
  if a + n ≤ s.bufSize then body s else .err .bufferTooSmall s

/-- A word that spells no command (R55, R109 line 2). -/
def State.issueIllegal (s : State) : Host.Outcome State Fault Refusal := s.issue (.fatal .illegalCommand)

/-! ### What the host does -/

/-- The host's next action and the state once it is taken, if the host does anything more. Every command word taken
adds 1 to `pc`, whatever becomes of it (spec/10_state.md R17). -/
def State.takeAction (s : State) : Option (HostAction × State) :=
  match s.pending with
  | [] => none
  | .command c :: q => some (.command c, (s.setPending q).setPc (s.pc + 1))
  | .writeByte a b :: q => some (.writeByte a b, s.setPending q)
  | .reset :: q => some (.reset, s.setPending q)

/-- The host presents `i`'s word before anything else it was about to do. -/
def State.present (s : State) (c : CmdWord) : State := s.setPending (.command c :: s.pending)

/-- Reset (R122, R29): every register takes its reset value, `CFG` shows the strap, `BUF` is not touched. -/
def State.afterReset (s : State) : State :=
  { s with
    d := 0, off := 0, len := 0
    a1 := Config.seed, a2 := Config.seed, cnt := 0
    ck := 0xFFFF#16, st := 0x00#8, cfg := s.readCfg }

/-- The host writes one byte of `BUF` between commands (R43, R132). -/
def State.hostWrite (s : State) (a : Offset) (b : Byte) : Host.Outcome State Fault Refusal :=
  if a.toNat < s.bufSize then .next (s.setByte a.toNat b) else .fault .noSuchByte

/-- The host reads one byte of `BUF` between commands (R43, R132): the byte, where there is one. It changes nothing. -/
def State.hostRead (s : State) (a : Nat) : Option Byte := if a < s.bufSize then some (s.bufByte a) else none

/-- The status port (R131): the registers, as level outputs. -/
structure StatusPort where
  d : BitVec 64
  off : Offset
  len : BitVec 24
  a1 : BitVec 16
  a2 : BitVec 16
  cnt : BitVec 5
  ck : BitVec 16
  st : BitVec 8
  cfg : BitVec 8
  deriving DecidableEq, Repr

/-- What the status port shows between commands (R131, R27); `CFG[7:1]` reads as 0 (R24). -/
def State.statusPort (s : State) : StatusPort where
  d := s.d
  off := s.off
  len := s.len
  a1 := s.a1
  a2 := s.a2
  cnt := s.cnt
  ck := s.ck
  st := s.st
  cfg := s.readCfg

end Sys2Proof.Machine
end

