-- ==== Sys2Proof/Machine/ByteOrder.lean ====
section
/-! DEFINITION. The byte-order commands BSWAP, NORM, NORMM, LDN, STN, LDF, STF (spec/41_byteorder.md R82 to R88), each
behind the width test of R81. -/

namespace Sys2Proof.Machine

/-- `D <- zext_64(v)` (R85, R87): all 64 bits written. -/
def State.loadD (s : State) (v : Nat) : State := s.setD (BitVec.ofNat 64 v)

/-- `if HOST_BE = 1 then MemWrite(OFF, w, rev(MemRead(OFF, w)))` (R84). -/
def State.normalizeField (s : State) (a w : Nat) : State :=
  if s.hostBE then s.memWrite a (s.memRead a w).reverse else s

/-- BSWAP w (R82): swap the low `w` bytes of `D`, whatever the host. -/
def execBswap (w : BitVec 8) (s : State) : Host.Outcome State Fault Refusal :=
  s.issue (withWidth w fun v =>
    .done (s.setD (withLowBytes v.bytes s.d (bswapNat v.bytes (lowBytes v.bytes s.d)))))

/-- NORM w (R83): normalize the low `w` bytes of `D`. -/
def execNorm (w : BitVec 8) (s : State) : Host.Outcome State Fault Refusal :=
  s.issue (withWidth w fun v =>
    .done (s.setD (withLowBytes v.bytes s.d (normalizeNat s.hostBE v.bytes (lowBytes v.bytes s.d)))))

/-- NORMM w (R84): normalize a field in place in the buffer; the bounds test is made on either host. -/
def execNormm (w : BitVec 8) (s : State) : Host.Outcome State Fault Refusal :=
  s.issue (withWidth w fun v =>
    s.inBounds s.off.toNat v.bytes fun t => .done (t.normalizeField t.off.toNat v.bytes))

/-- LDN w (R85): the host's own load, zero-extended. -/
def execLdn (w : BitVec 8) (s : State) : Host.Outcome State Fault Refusal :=
  s.issue (withWidth w fun v =>
    s.inBounds s.off.toNat v.bytes fun t => .done (t.loadD (t.nativeRead t.off.toNat v.bytes)))

/-- STN w (R86): the host's own store of the low `w` bytes of `D`. -/
def execStn (w : BitVec 8) (s : State) : Host.Outcome State Fault Refusal :=
  s.issue (withWidth w fun v =>
    s.inBounds s.off.toNat v.bytes fun t => .done (t.nativeWrite t.off.toNat v.bytes (lowBytes v.bytes t.d)))

/-- LDF w (R87): load a wire field, zero-extended. -/
def execLdf (w : BitVec 8) (s : State) : Host.Outcome State Fault Refusal :=
  s.issue (withWidth w fun v =>
    s.inBounds s.off.toNat v.bytes fun t => .done (t.loadD (t.wireRead t.off.toNat v.bytes)))

/-- STF w (R88): store a wire field; `D` itself is not changed. -/
def execStf (w : BitVec 8) (s : State) : Host.Outcome State Fault Refusal :=
  s.issue (withWidth w fun v =>
    s.inBounds s.off.toNat v.bytes fun t => .done (t.wireWrite t.off.toNat v.bytes (lowBytes v.bytes t.d)))

end Sys2Proof.Machine
end

