-- ==== Sys2Proof/Machine/Fletcher.lean ====
section
/-! DEFINITION. The checksum arithmetic: `fold16` (spec/00_scope.md R10), the function `Fletcher` over a byte list
(spec/40_checksum.md R62), and the two step functions `absorb` (R60) and `finish` (R61) on the block's registers. -/

namespace Sys2Proof.Machine

/-- `fold16(v) = (v & 0xFF) + (v >> 8)` (R10). -/
def fold16 (v : BitVec 16) : BitVec 16 := (v &&& 0x00FF#16) + (v >>> 8)

/-- The two running sums of R62. -/
structure Sums where
  a1 : BitVec 16
  a2 : BitVec 16
  deriving DecidableEq, Repr

/-- One byte into the sums: `a1 += b`, then `a2 += a1` with the new `a1`, modulo 2^16 (R62, R60). -/
def Sums.addByte (x : Sums) (b : Byte) : Sums :=
  let a1 := x.a1 + b.setWidth 16
  ⟨a1, x.a2 + a1⟩

/-- Both sums folded (R62). -/
def Sums.fold (x : Sums) : Sums := ⟨fold16 x.a1, fold16 x.a2⟩

/-- The chunks of R62: while bytes are left, add the next `min(20, left)` of them and fold. `fuel` bounds the number of
chunks; the length of the list is always enough. -/
def chunkLoop : Nat → Sums → List Byte → Sums
  | 0, x, _ => x
  | _ + 1, x, [] => x
  | fuel + 1, x, b :: bs =>
    chunkLoop fuel (((b :: bs).take Config.chunkMax).foldl Sums.addByte x).fold ((b :: bs).drop Config.chunkMax)

/-- `(a2 << 8) | a1`, its low 16 bits (R61, R62). -/
def Sums.result (x : Sums) : BitVec 16 := (x.a2 <<< 8) ||| x.a1

/-- `Fletcher(bs)` (R62): seed, chunks, one more fold, result. -/
def fletcher (bs : List Byte) : BitVec 16 :=
  (chunkLoop bs.length ⟨Config.seed, Config.seed⟩ bs).fold.result

/-- `absorb(b)` (R60). -/
def State.absorb (s : State) (b : Byte) : State :=
  let x := (Sums.mk s.a1 s.a2).addByte b
  if s.cnt + 1#5 = BitVec.ofNat 5 Config.chunkMax then s.setAcc x.fold.a1 x.fold.a2 0#5
  else s.setAcc x.a1 x.a2 (s.cnt + 1#5)

/-- `absorb` of each byte in order (R69). -/
def State.absorbAll (s : State) (bs : List Byte) : State := bs.foldl State.absorb s

/-- The accumulators at the seed, no chunk open (R61, R67). -/
def State.reseed (s : State) : State := s.setAcc Config.seed Config.seed 0#5

/-- `finish()` (R61): close the open chunk, fold once more, result into `CK`, reseed. -/
def State.finish (s : State) : State :=
  let x : Sums := ⟨s.a1, s.a2⟩
  let y := if s.cnt = 0#5 then x else x.fold
  (s.setCk y.fold.result).reseed

end Sys2Proof.Machine
end

