-- ==== Sys2Proof/Machine/Checksum.lean ====
section
/-! DEFINITION. The checksum commands CKINIT, CKB, CKABS, CKFIN, CKRANGE, CKPUT, CKVFY (spec/40_checksum.md R67 to R73). -/

namespace Sys2Proof.Machine

/-- `OFF + LEN`, a natural number that never wraps (spec/20_memory.md R37): where the covered range ends and the
trailer belongs. -/
def State.trailerAt (s : State) : Nat := s.off.toNat + s.len.toNat

/-- `CK <- Fletcher(MemRead(OFF, LEN)); A1 <- A2 <- 0x00FF; CNT <- 0`, common to R71 and R73. -/
def State.checksumRange (s : State) : State :=
  (s.setCk (fletcher (s.memRead s.off.toNat s.len.toNat))).reseed

/-- CKINIT (R67): start a new streamed checksum. -/
def execCkinit (s : State) : Host.Outcome State Fault Refusal := s.issue (.done s.reseed)

/-- CKB imm8 (R68): absorb one byte. -/
def execCkb (imm8 : BitVec 8) (s : State) : Host.Outcome State Fault Refusal := s.issue (.done (s.absorb imm8))

/-- CKABS (R69): absorb the range `OFF`, `LEN` into the current stream. -/
def execCkabs (s : State) : Host.Outcome State Fault Refusal :=
  s.issue (s.inBounds s.off.toNat s.len.toNat fun t => .done (t.absorbAll (t.memRead t.off.toNat t.len.toNat)))

/-- CKFIN (R70): finish the streamed checksum. -/
def execCkfin (s : State) : Host.Outcome State Fault Refusal := s.issue (.done s.finish)

/-- CKRANGE (R71): the checksum of the range `OFF`, `LEN`. -/
def execCkrange (s : State) : Host.Outcome State Fault Refusal :=
  s.issue (s.inBounds s.off.toNat s.len.toNat fun t => .done t.checksumRange)

/-- CKPUT (R72): `CK` as the wire-order trailer after the range. -/
def execCkput (s : State) : Host.Outcome State Fault Refusal :=
  s.issue (s.inBounds s.off.toNat (s.len.toNat + Config.trailerBytes)
    fun t => .done (t.wireWrite t.trailerAt Config.trailerBytes t.ck.toNat))

/-- How CKVFY ends once its bounds test has passed (R73): `CK` and the accumulators are written before the comparison,
so a mismatch leaves the computed checksum in `CK`. -/
def State.compareTrailer (s : State) : Ending :=
  if s.wireRead s.trailerAt Config.trailerBytes = s.checksumRange.ck.toNat then .done s.checksumRange
  else .err .checksumMismatch s.checksumRange

/-- CKVFY (R73): verify the stored trailer. -/
def execCkvfy (s : State) : Host.Outcome State Fault Refusal :=
  s.issue (s.inBounds s.off.toNat (s.len.toNat + Config.trailerBytes) State.compareTrailer)

end Sys2Proof.Machine
end

