-- ==== Sys2Proof/Machine/System.lean ====
section
/-! DEFINITION. The system commands NOP, SETOFF, SETLEN, SETD (spec/42_system.md R100 to R103). -/

namespace Sys2Proof.Machine

/-- NOP (R100): no register and no byte of `BUF` changes. -/
def execNop (s : State) : Host.Outcome State Fault Refusal := s.issue (.done s)

/-- SETOFF imm24 (R101): `OFF <- IMM24`, not checked against `BUF_SIZE` here. -/
def execSetoff (imm24 : BitVec 24) (s : State) : Host.Outcome State Fault Refusal := s.issue (.done (s.setOff imm24))

/-- SETLEN imm24 (R102): `LEN <- IMM24`, not checked against `BUF_SIZE` here. -/
def execSetlen (imm24 : BitVec 24) (s : State) : Host.Outcome State Fault Refusal := s.issue (.done (s.setLen imm24))

/-- SETD k, imm16 (R103): `D[16K+15:16K] <- IMM16`. -/
def execSetd (k : BitVec 2) (imm16 : BitVec 16) (s : State) : Host.Outcome State Fault Refusal :=
  s.issue (.done (s.setD (withLane k s.d imm16)))

end Sys2Proof.Machine
end

