-- ==== Sys2Proof/Machine/Dispatch.lean ====
section
/-! DEFINITION. The meaning of each command, by name. -/

namespace Sys2Proof.Machine

def exec (i : Instr) (s : State) : Host.Outcome State Fault Refusal :=
  match i with
  -- system commands (spec/42_system.md)
  | .nop => Sys2Proof.Machine.execNop s
  | .setoff imm24 => Sys2Proof.Machine.execSetoff imm24 s
  | .setlen imm24 => Sys2Proof.Machine.execSetlen imm24 s
  | .setd k imm16 => Sys2Proof.Machine.execSetd k imm16 s
  -- checksum commands (spec/40_checksum.md)
  | .ckinit => Sys2Proof.Machine.execCkinit s
  | .ckb imm8 => Sys2Proof.Machine.execCkb imm8 s
  | .ckabs => Sys2Proof.Machine.execCkabs s
  | .ckfin => Sys2Proof.Machine.execCkfin s
  | .ckrange => Sys2Proof.Machine.execCkrange s
  | .ckput => Sys2Proof.Machine.execCkput s
  | .ckvfy => Sys2Proof.Machine.execCkvfy s
  -- byte-order commands (spec/41_byteorder.md)
  | .bswap w => Sys2Proof.Machine.execBswap w s
  | .norm w => Sys2Proof.Machine.execNorm w s
  | .normm w => Sys2Proof.Machine.execNormm w s
  | .ldn w => Sys2Proof.Machine.execLdn w s
  | .stn w => Sys2Proof.Machine.execStn w s
  | .ldf w => Sys2Proof.Machine.execLdf w s
  | .stf w => Sys2Proof.Machine.execStf w s

end Sys2Proof.Machine
end

