-- ==== Sys2Proof/Machine/Step.lean ====
section
/-! DEFINITION. One step: the host's next action (spec/00_scope.md R5, spec/60_exceptions.md R109), and where the host
places the next command word. -/

namespace Sys2Proof.Machine

/-- One step. With no action left nothing happens: only a command or the host changes the state (log entry 6). A command
word is decoded and run, an illegal word raises `Fatal(IllegalCommand)`, and either is discarded while `ST.FATAL = 1`
(R109). -/
def step (s : State) : Host.Outcome State Fault Refusal :=
  match s.takeAction with
  | none => .next s
  | some (.command c, t) =>
    match decode c with
    | .ok i => exec i t
    | .error _ => t.issueIllegal
  | some (.writeByte a b, t) => t.hostWrite a b
  | some (.reset, t) => .next t.afterReset

/-- The state in which the host presents, before anything else, the command word with these bits (log entry 5). -/
def State.withFetchWord (s : State) (nbits w : Nat) : State :=
  s.present (BitVec.ofNat 32 (w % 2 ^ nbits))

end Sys2Proof.Machine
end

