-- ==== Sys2Proof/Machine/Frame.lean ====
section
/-! DEFINITION. The geometry of a frame in the buffer (spec/20_memory.md R40, R41): where each region lies, how long it
is, and the payload length `P` the frame itself gives. Offsets are natural numbers, from the frame's first byte `base`. -/

namespace Sys2Proof.Machine

/-- The two kinds of frame. -/
inductive FrameKind where
  | request | response
  deriving DecidableEq, Repr

/-- The regions of R40's table. -/
inductive Region where
  | version | reserved | payloadLen | partner | iv | payload | trailer
  deriving DecidableEq, Repr

/-- `H`: bytes in the header. -/
def FrameKind.headerBytes : FrameKind → Nat
  | .request => Config.hdrReq
  | .response => Config.hdrRsp

/-- Offset of the 1-byte version. -/
def versionAt (base : Nat) : Nat := base

/-- Offset of the 1-byte reserved pad. -/
def reservedAt (base : Nat) : Nat := base + 1

/-- Offset of the 2-byte payload length of a frame at `base`. -/
def payloadLenAt (base : Nat) : Nat := base + 2

/-- Offset of the 4-byte partner identifier; a response has none. -/
def FrameKind.partnerAt : FrameKind → Nat → Option Nat
  | .request, base => some (base + 4)
  | .response, _ => none

/-- Offset of the 16-byte initialization vector. -/
def FrameKind.ivAt : FrameKind → Nat → Nat
  | .request, base => base + 8
  | .response, base => base + 4

/-- Offset of the payload. -/
def FrameKind.payloadAt (k : FrameKind) (base : Nat) : Nat := base + k.headerBytes

/-- Bytes the checksum covers, from `base` on: header and payload of `p` bytes (R41). -/
def FrameKind.coveredBytes (k : FrameKind) (p : Nat) : Nat := k.headerBytes + p

/-- Offset of the trailer, right after the covered bytes. -/
def FrameKind.trailerAt (k : FrameKind) (base p : Nat) : Nat := base + k.coveredBytes p

/-- Bytes in the whole frame. -/
def FrameKind.frameBytes (k : FrameKind) (p : Nat) : Nat := k.coveredBytes p + Config.trailerBytes

/-- R40's table: the offset and the length of each region of a frame at `base` with a payload of `p` bytes. -/
def FrameKind.region (k : FrameKind) (base p : Nat) : Region → Option (Nat × Nat)
  | .version => some (versionAt base, 1)
  | .reserved => some (reservedAt base, 1)
  | .payloadLen => some (payloadLenAt base, 2)
  | .partner => (k.partnerAt base).map fun a => (a, 4)
  | .iv => some (k.ivAt base, 16)
  | .payload => some (k.payloadAt base, p)
  | .trailer => some (k.trailerAt base p, Config.trailerBytes)

/-- `P` of the frame at `base`: the little-endian value of its payload-length field (R40, R33). DESIGN CHOICE
(log entry 13): there is no bounds test here, so where the field does not lie inside `BUF` (`base + 4 > BUF_SIZE`) the bytes
outside are free ones, and so is the number; a claim takes `base + 4 <= BUF_SIZE` as a premise. -/
def State.payloadBytes (s : State) (base : Nat) : Nat := leNat (s.memRead (payloadLenAt base) 2)

/-- `P` is a multiple of 16, which R40 says of every frame; CKBO does not check it (R36). -/
def State.payloadWhole (s : State) (base : Nat) : Bool := s.payloadBytes base % 16 == 0

/-- `H + P` of the frame at `base` (R41), under the premise of `State.payloadBytes` (log entry 13). -/
def State.coveredBytes (s : State) (k : FrameKind) (base : Nat) : Nat := k.coveredBytes (s.payloadBytes base)

end Sys2Proof.Machine
end

