-- ==== Sys2Proof/Machine/Pseudo.lean ====
section
/-! DEFINITION. What exists only on the host's side of the command port: the pseudo-instructions (spec/30_encoding.md
R58), the field tables (spec/41_byteorder.md R94, R95, R97), normalizing a struct by its table (R93), and sealing and
checking the frame at an offset (spec/20_memory.md R41). Offsets are natural numbers; an expansion whose operand does not
fit its field is none (R57). -/

namespace Sys2Proof.Machine

/-! ### Field tables (R94, R95, R97) -/

/-- The (offset, width) pairs of the fields of a layout that starts at `o`: the bytes skipped before each field, and its
width. The fields of a table made so lie one after another, so they do not overlap (R93). -/
def layOut (o : Nat) : List (Nat × Width) → List (Nat × Width)
  | [] => []
  | (skip, w) :: fs => (o + skip, w) :: layOut (o + skip + w.bytes) fs

/-- Two fields have no byte in common (R93). -/
def fieldsApart (f g : Nat × Width) : Prop := f.1 + f.2.bytes ≤ g.1 ∨ g.1 + g.2.bytes ≤ f.1

/-- `FieldTable(kind)`: the (offset, width) pairs of the multi-byte fields the normalizer swaps. Fixed for the headers,
the trailer and the access point; free, but without overlap, for the kinds whose layout the document does not give
(log entry 9). -/
def fieldTable : StructKind → List (Nat × Width)
  | .requestHeader => [(2, .w2), (4, .w4)]
  | .responseHeader => [(2, .w2)]
  | .trailer => [(0, .w2)]
  | .accessPoint => []
  | .gsmUmtsCell => layOut 0 (Config.openLayout .gsmUmtsCell)
  | .cdmaCell => layOut 0 (Config.openLayout .cdmaCell)
  | .lteCell => layOut 0 (Config.openLayout .lteCell)
  | .gpsFix => layOut 0 (Config.openLayout .gpsFix)
  | .bluetoothBeacon => layOut 0 (Config.openLayout .bluetoothBeacon)
  | .locationResult => layOut 0 (Config.openLayout .locationResult)

/-- The `W` field that spells a legal width (R54). -/
def widthField : Width → BitVec 8
  | .w1 => 1#8
  | .w2 => 2#8
  | .w4 => 4#8
  | .w8 => 8#8

/-- `SETOFF s+o; NORMM w` for each pair of a table, the struct at offset `base` (R93). -/
def normalizeFields (base : Nat) : List (Nat × Width) → Option (List Instr)
  | [] => some []
  | (o, w) :: fs =>
    match asmSetoff (base + o), normalizeFields base fs with
    | some i, some is => some (i :: .normm (widthField w) :: is)
    | _, _ => none

/-- Normalizing a struct of kind `k` at offset `base` (R93). -/
def normalizeStruct (k : StructKind) (base : Nat) : Option (List Instr) := normalizeFields base (fieldTable k)

/-! ### Pseudo-instructions (R58) -/

/-- `LDD imm64`. -/
def pseudoLdd (imm64 : BitVec 64) : List Instr :=
  [ .setd 0#2 (imm64.extractLsb' 0 16), .setd 1#2 (imm64.extractLsb' 16 16),
    .setd 2#2 (imm64.extractLsb' 32 16), .setd 3#2 (imm64.extractLsb' 48 16) ]

/-- `SETOFF off; SETLEN len` and then `rest`. -/
def withRange (off len : Nat) (rest : List Instr) : Option (List Instr) :=
  match asmSetoff off, asmSetlen len with
  | some i, some j => some (i :: j :: rest)
  | _, _ => none

/-- `CKSUM off, len`. -/
def pseudoCksum (off len : Nat) : Option (List Instr) := withRange off len [.ckrange]

/-- `SEAL off, len`. -/
def pseudoSeal (off len : Nat) : Option (List Instr) := withRange off len [.ckrange, .ckput]

/-- `CHECK off, len`. -/
def pseudoCheck (off len : Nat) : Option (List Instr) := withRange off len [.ckvfy]

/-- Sealing the frame of kind `k` at offset `base`: `SEAL` of its header and payload (R41). -/
def State.sealFrame (s : State) (k : FrameKind) (base : Nat) : Option (List Instr) :=
  pseudoSeal base (s.coveredBytes k base)

/-- Verifying the frame of kind `k` at offset `base`: `CHECK` of its header and payload (R41). -/
def State.checkFrame (s : State) (k : FrameKind) (base : Nat) : Option (List Instr) :=
  pseudoCheck base (s.coveredBytes k base)

/-- `NORMHDR.REQ base`. -/
def pseudoNormhdrReq (base : Nat) : Option (List Instr) :=
  match asmSetoff (base + 2), asmSetoff (base + 4) with
  | some i, some j => some [i, .normm 2#8, j, .normm 4#8]
  | _, _ => none

/-- `NORMHDR.RSP base`. -/
def pseudoNormhdrRsp (base : Nat) : Option (List Instr) :=
  match asmSetoff (base + 2) with
  | some i => some [i, .normm 2#8]
  | none => none

/-- The host actions that present these commands in order: a pseudo-instruction does not stop at an error (R58). -/
def presentAll (is : List Instr) : List HostAction := is.map fun i => .command (encode i)

end Sys2Proof.Machine
end

