-- ==== Sys2Proof/Safety.lean ====
section
/-! DEFINITION. What counts as a completed run (spec/70_reset_and_hazards.md R134), and the invariants of the state: the
buffer's form, the accumulators' bounds (spec/10_state.md R28, spec/40_checksum.md R64), the status codes
(spec/10_state.md R21, spec/60_exceptions.md R107, R108) and the reserved bits of `CFG` (R24). -/

namespace Sys2Proof.Machine

/-- A faulted state (R106, R112, R134): `ST.FATAL = 1`. -/
def State.faulted (s : State) : Bool := s.isFatal

/-- The host's list is a run of R134: command words and nothing else. -/
def State.commandsOnly (s : State) : Bool :=
  s.pending.all fun a =>
    match a with
    | .command _ => true
    | .writeByte _ _ | .reset => false

/-- The run has ended (R134): the host's list is exhausted. DESIGN CHOICE (log entry 12): R134's list holds command words
alone; on a list that also holds writes and resets of the host, the run ends when these are taken too. -/
def State.ended (s : State) : Bool := s.pending.isEmpty

/-- The run completed (R134): it ended and `ST.FATAL = 0`. DESIGN CHOICE (log entry 12): it looks at the end state alone, so
on a list with a reset in it a run that was fatal before the reset counts as completed; on a list of commands
(`State.commandsOnly`) nothing clears `ST.FATAL` and it says what R134 says. -/
def State.completed (s : State) : Bool := s.ended && !s.faulted

/-- The buffer's form: cells in canonical order, each inside `BUF`, and `BUF_SIZE` in its range (R7, R25, R30). -/
def State.BufInv (s : State) : Prop :=
  s.buf.wf = true ∧ (∀ cell ∈ s.buf, cell.1 < s.bufSize) ∧ s.bufSize ≤ 2 ^ 24

/-- The accumulators' bounds after `CNT` bytes of a chunk: R28 (a), and (b) and (c) with the bound on `A2` that R64 gives
for every position in the chunk. -/
def State.AccInv (s : State) : Prop :=
  s.cnt.toNat ≤ 19 ∧
  1 ≤ s.a1.toNat ∧ s.a1.toNat ≤ 510 + 255 * s.cnt.toNat ∧
  1 ≤ s.a2.toNat ∧
  2 * s.a2.toNat ≤ 2 * 510 + 2 * (510 * s.cnt.toNat) + 255 * (s.cnt.toNat * (s.cnt.toNat + 1))

/-- Neither byte of a checksum is 0x00 (R28 d). -/
def State.CkInv (s : State) : Prop := s.ck.extractLsb' 0 8 ≠ 0#8 ∧ s.ck.extractLsb' 8 8 ≠ 0#8

/-- The status register holds a value the rules give: `FCAUSE` is 0 exactly while `FATAL` is 0, and otherwise BadWidth or
IllegalCommand (R21, R108); `ERR` is 0, 1 or 2 (R107). -/
def State.StInv (s : State) : Prop :=
  (stErr s.st = 0#4 ∨ stErr s.st = 1#4 ∨ stErr s.st = 2#4) ∧
  ((stFatal s.st = false ∧ stCause s.st = 0#3) ∨
   (stFatal s.st = true ∧ (stCause s.st = 1#3 ∨ stCause s.st = 2#3)))

/-- `CFG[7:1]` are 0 (R24). -/
def State.CfgInv (s : State) : Prop := s.cfg.extractLsb' 1 7 = 0#7

/-- All of them. -/
structure State.Inv (s : State) : Prop where
  buf : s.BufInv
  acc : s.AccInv
  ck : s.CkInv
  st : s.StInv
  cfg : s.CfgInv

end Sys2Proof.Machine
end

