-- ==== Sys2Proof/Certificates/Slice0/Obligations.lean ====
section
/-! DEFINITION. The statements about CKBO for the provers, taken from the numbered rules of spec/. The status register is
written out in them as bits of `ST` (spec/10_state.md R21): `st &&& 0xF0` is `ERR <- 0`, `(st &&& 0xF0) ||| 1` is
`ERR <- BufferTooSmall`, `(st &&& 0x0F) ||| 0x90` is FATAL with cause BadWidth and `ERR` kept. -/

namespace Sys2Proof.Claims

open Sys2Proof.Machine

/-- Byte `i` of `D` (spec/10_state.md R14). -/
def dByte (d : BitVec 64) (i : Nat) : Byte := d.extractLsb' (8 * i) 8

/-- The mnemonic of a command (spec/30_encoding.md R52). -/
def mnemonic : Instr → String
  | .nop => "NOP"
  | .setoff _ => "SETOFF"
  | .setlen _ => "SETLEN"
  | .setd _ _ => "SETD"
  | .ckinit => "CKINIT"
  | .ckb _ => "CKB"
  | .ckabs => "CKABS"
  | .ckfin => "CKFIN"
  | .ckrange => "CKRANGE"
  | .ckput => "CKPUT"
  | .ckvfy => "CKVFY"
  | .bswap _ => "BSWAP"
  | .norm _ => "NORM"
  | .normm _ => "NORMM"
  | .ldn _ => "LDN"
  | .stn _ => "STN"
  | .ldf _ => "LDF"
  | .stf _ => "STF"

/-- The bytes of the range `OFF`, `LEN` in order (spec/20_memory.md R31). -/
def rangeBytes (s : State) : List Byte := (List.range s.len.toNat).map fun i => s.bufByte (s.off.toNat + i)

/-- The state after these commands in order, if each answers a next state. -/
def runAll : List Instr → State → Option State
  | [], s => some s
  | i :: is, s =>
    match exec i s with
    | .next t => runAll is t
    | _ => none

/-- How many bytes from `OFF` on a memory command needs (the table of R37); none for the other commands. -/
def needs (s : State) : Instr → Option Nat
  | .ckabs | .ckrange => some s.len.toNat
  | .ckput | .ckvfy => some (s.len.toNat + 2)
  | .normm w | .ldn w | .stn w | .ldf w | .stf w => some w.toNat
  | .nop | .setoff _ | .setlen _ | .setd _ _ | .ckinit | .ckb _ | .ckfin | .bswap _ | .norm _ => none

/-- The "Written by" column of R13 for `D`. -/
def writesD : Instr → Bool
  | .setd _ _ | .bswap _ | .norm _ | .ldn _ | .ldf _ => true
  | .nop | .setoff _ | .setlen _ | .ckinit | .ckb _ | .ckabs | .ckfin | .ckrange | .ckput | .ckvfy | .normm _ | .stn _
  | .stf _ => false

/-- The "Written by" column of R13 for `OFF`. -/
def writesOff : Instr → Bool
  | .setoff _ => true
  | .nop | .setlen _ | .setd _ _ | .ckinit | .ckb _ | .ckabs | .ckfin | .ckrange | .ckput | .ckvfy | .bswap _ | .norm _
  | .normm _ | .ldn _ | .stn _ | .ldf _ | .stf _ => false

/-- The "Written by" column of R13 for `LEN`. -/
def writesLen : Instr → Bool
  | .setlen _ => true
  | .nop | .setoff _ | .setd _ _ | .ckinit | .ckb _ | .ckabs | .ckfin | .ckrange | .ckput | .ckvfy | .bswap _ | .norm _
  | .normm _ | .ldn _ | .stn _ | .ldf _ | .stf _ => false

/-- The "Written by" column of R13 for `A1`, `A2` and `CNT`. -/
def writesAcc : Instr → Bool
  | .ckinit | .ckb _ | .ckabs | .ckfin | .ckrange | .ckvfy => true
  | .nop | .setoff _ | .setlen _ | .setd _ _ | .ckput | .bswap _ | .norm _ | .normm _ | .ldn _ | .stn _ | .ldf _
  | .stf _ => false

/-- The "Written by" column of R13 for `CK`. -/
def writesCk : Instr → Bool
  | .ckfin | .ckrange | .ckvfy => true
  | .nop | .setoff _ | .setlen _ | .setd _ _ | .ckinit | .ckb _ | .ckabs | .ckput | .bswap _ | .norm _ | .normm _
  | .ldn _ | .stn _ | .ldf _ | .stf _ => false

/-- The "Written by" column of R13 for `BUF`, the host apart. -/
def writesBuf : Instr → Bool
  | .ckput | .normm _ | .stn _ | .stf _ => true
  | .nop | .setoff _ | .setlen _ | .setd _ _ | .ckinit | .ckb _ | .ckabs | .ckfin | .ckrange | .ckvfy | .bswap _
  | .norm _ | .ldn _ | .ldf _ => false

/-- The commands whose effect depends on the host's byte order (spec/41_byteorder.md R90). -/
def hostDependent : Instr → Bool
  | .ldn _ | .stn _ | .norm _ | .normm _ => true
  | .nop | .setoff _ | .setlen _ | .setd _ _ | .ckinit | .ckb _ | .ckabs | .ckfin | .ckrange | .ckput | .ckvfy
  | .bswap _ | .ldf _ | .stf _ => false

/-- `bs[0] + bs[1] + ... + bs[n-1]` (spec/40_checksum.md R65). -/
def plainSum : List Byte → Nat
  | [] => 0
  | b :: bs => b.toNat + plainSum bs

/-- `n*bs[0] + (n-1)*bs[1] + ... + 1*bs[n-1]` (R65). -/
def weightedSum : List Byte → Nat
  | [] => 0
  | b :: bs => (bs.length + 1) * b.toNat + weightedSum bs

/-- A residue modulo 255 as a byte of the checksum: 0xFF stands for the residue 0 (R65). -/
def residueByte (n : Nat) : Nat := if n % 255 = 0 then 255 else n % 255

end Sys2Proof.Claims

open Sys2Proof Sys2Proof.Machine Sys2Proof.Claims

/-! ### The system commands -/

/-- R100: NOP's word; it clears the error outcome and changes nothing else; while FATAL is 1 it clears nothing. -/
def Obligations.NopOnlyClearsErr : Prop :=
  decode 0x00000000#32 = .ok .nop ∧
  ∀ s : State,
    (s.isFatal = false → exec .nop s = .next { s with st := s.st &&& 0xF0#8 }) ∧
    (s.isFatal = true → exec .nop s = .next s)

/-- R101: SETOFF's word; `OFF <- IMM24` for every IMM24, unchecked; `ERR <- 0`. -/
def Obligations.SetoffWritesOff : Prop :=
  ∀ imm : BitVec 24,
    decode (0x01000000#32 ||| imm.setWidth 32) = .ok (.setoff imm) ∧
    ∀ s : State, s.isFatal = false → exec (.setoff imm) s = .next { s with off := imm, st := s.st &&& 0xF0#8 }

/-- R102: SETLEN's word; `LEN <- IMM24` for every IMM24, unchecked; `ERR <- 0`. -/
def Obligations.SetlenWritesLen : Prop :=
  ∀ imm : BitVec 24,
    decode (0x02000000#32 ||| imm.setWidth 32) = .ok (.setlen imm) ∧
    ∀ s : State, s.isFatal = false → exec (.setlen imm) s = .next { s with len := imm, st := s.st &&& 0xF0#8 }

/-- R103: SETD's word; lane K of `D` becomes IMM16 and the other three lanes keep their values; `ERR <- 0`. -/
def Obligations.SetdWritesOneLane : Prop :=
  ∀ (k : BitVec 2) (imm : BitVec 16),
    decode (0x03000000#32 ||| (k.setWidth 32 <<< 16) ||| imm.setWidth 32) = .ok (.setd k imm) ∧
    ∀ s : State, s.isFatal = false →
      ∃ v, exec (.setd k imm) s = .next { s with d := v, st := s.st &&& 0xF0#8 } ∧
        ∀ j < 4, v.extractLsb' (16 * j) 16 = if j = k.toNat then imm else s.d.extractLsb' (16 * j) 16

/-! ### The checksum commands -/

/-- R67: CKINIT's word; both accumulators at the seed, `CNT` 0, `ERR <- 0`, nothing else. -/
def Obligations.CkinitReseeds : Prop :=
  decode 0x10000000#32 = .ok .ckinit ∧
  ∀ s : State, s.isFatal = false →
    exec .ckinit s = .next { s with a1 := 0x00FF#16, a2 := 0x00FF#16, cnt := 0#5, st := s.st &&& 0xF0#8 }

/-- R68 with R60: CKB's word; the byte into A1, the new A1 into A2, and the fold of both when the chunk of 20 is full. -/
def Obligations.CkbAbsorbsByte : Prop :=
  ∀ imm : BitVec 8,
    decode (0x11000000#32 ||| imm.setWidth 32) = .ok (.ckb imm) ∧
    ∀ s : State, s.isFatal = false →
      let x := s.a1 + imm.setWidth 16
      let y := s.a2 + x
      exec (.ckb imm) s = .next
        (if s.cnt = 19#5 then
          { s with a1 := (x &&& 0xFF#16) + (x >>> 8), a2 := (y &&& 0xFF#16) + (y >>> 8), cnt := 0#5,
                   st := s.st &&& 0xF0#8 }
         else { s with a1 := x, a2 := y, cnt := s.cnt + 1#5, st := s.st &&& 0xF0#8 })

/-- R69: CKABS's word; the bytes of the range absorbed in order into the stream that is open, or `BufferTooSmall` with
nothing else changed. -/
def Obligations.CkabsAbsorbsRange : Prop :=
  decode 0x12000000#32 = .ok .ckabs ∧
  ∀ s : State, s.isFatal = false →
    (s.off.toNat + s.len.toNat ≤ s.bufSize →
      let u := (rangeBytes s).foldl State.absorb s
      exec .ckabs s = .next { s with a1 := u.a1, a2 := u.a2, cnt := u.cnt, st := s.st &&& 0xF0#8 }) ∧
    (s.bufSize < s.off.toNat + s.len.toNat → exec .ckabs s = .next { s with st := (s.st &&& 0xF0#8) ||| 1#8 })

/-- R70 with R61: CKFIN's word; the open chunk closed, one more fold, the result into `CK`, the accumulators reseeded. -/
def Obligations.CkfinFoldsAndReseeds : Prop :=
  decode 0x13000000#32 = .ok .ckfin ∧
  ∀ s : State, s.isFatal = false →
    let f := fun v : BitVec 16 => (v &&& 0xFF#16) + (v >>> 8)
    let x := if s.cnt = 0#5 then f s.a1 else f (f s.a1)
    let y := if s.cnt = 0#5 then f s.a2 else f (f s.a2)
    exec .ckfin s = .next
      { s with ck := (y <<< 8) ||| x, a1 := 0x00FF#16, a2 := 0x00FF#16, cnt := 0#5, st := s.st &&& 0xF0#8 }

/-- R71: CKRANGE's word; `CK` is `Fletcher` of the range and the accumulators are reseeded, which is CKINIT, CKABS,
CKFIN in one step; or `BufferTooSmall` with nothing else changed, an open stream included. -/
def Obligations.CkrangeIsFletcherOfRange : Prop :=
  decode 0x14000000#32 = .ok .ckrange ∧
  ∀ s : State, s.isFatal = false →
    (s.off.toNat + s.len.toNat ≤ s.bufSize →
      exec .ckrange s = .next
        { s with ck := fletcher (rangeBytes s), a1 := 0x00FF#16, a2 := 0x00FF#16, cnt := 0#5, st := s.st &&& 0xF0#8 } ∧
      runAll [.ckinit, .ckabs, .ckfin] s = runAll [.ckrange] s) ∧
    (s.bufSize < s.off.toNat + s.len.toNat → exec .ckrange s = .next { s with st := (s.st &&& 0xF0#8) ||| 1#8 })

/-- R72: CKPUT's word; the low byte of `CK` at `OFF + LEN` and the high byte after it, whatever the host, and no other
byte and no register but `ST`; or `BufferTooSmall` with no byte written. -/
def Obligations.CkputAppendsTrailer : Prop :=
  decode 0x15000000#32 = .ok .ckput ∧
  ∀ s : State, s.isFatal = false →
    let t := s.off.toNat + s.len.toNat
    (t + 2 ≤ s.bufSize →
      ∃ u, exec .ckput s = .next u ∧ u = { s with buf := u.buf, st := s.st &&& 0xF0#8 } ∧
        ∀ a, u.bufByte a =
          if a = t then s.ck.extractLsb' 0 8 else if a = t + 1 then s.ck.extractLsb' 8 8 else s.bufByte a) ∧
    (s.bufSize < t + 2 → exec .ckput s = .next { s with st := (s.st &&& 0xF0#8) ||| 1#8 })

/-- R73: CKVFY's word; `CK` the computed checksum and the accumulators reseeded whether the trailer matches or not, `ERR`
0 exactly when the stored trailer equals it and `ChecksumMismatch` otherwise; or `BufferTooSmall` with nothing else
changed. -/
def Obligations.CkvfyComparesTrailer : Prop :=
  decode 0x16000000#32 = .ok .ckvfy ∧
  ∀ s : State, s.isFatal = false →
    let t := s.off.toNat + s.len.toNat
    (t + 2 ≤ s.bufSize →
      exec .ckvfy s = .next
        { s with ck := fletcher (rangeBytes s), a1 := 0x00FF#16, a2 := 0x00FF#16, cnt := 0#5,
                 st := if s.bufByte (t + 1) ++ s.bufByte t = fletcher (rangeBytes s) then s.st &&& 0xF0#8
                       else (s.st &&& 0xF0#8) ||| 2#8 }) ∧
    (s.bufSize < t + 2 → exec .ckvfy s = .next { s with st := (s.st &&& 0xF0#8) ||| 1#8 })

/-! ### The byte-order commands -/

/-- R82: BSWAP's word; byte `i` of the low `w` bytes of `D` becomes byte `w-1-i`, the bytes above keep their values, on
either host; any other width is `Fatal(BadWidth)`. -/
def Obligations.BswapReversesLowBytes : Prop :=
  ∀ w : BitVec 8,
    decode (0x20000000#32 ||| w.setWidth 32) = .ok (.bswap w) ∧
    ∀ s : State, s.isFatal = false →
      (legalWidth w = true →
        ∃ v, exec (.bswap w) s = .next { s with d := v, st := s.st &&& 0xF0#8 } ∧
          ∀ i < 8, dByte v i = if i < w.toNat then dByte s.d (w.toNat - 1 - i) else dByte s.d i) ∧
      (legalWidth w = false → exec (.bswap w) s = .next { s with st := (s.st &&& 0x0F#8) ||| 0x90#8 })

/-- R83: NORM's word; on a big-endian host it is the swap of the low `w` bytes of `D`, on a little-endian host nothing
but `ERR` changes; any other width is `Fatal(BadWidth)` on either host. -/
def Obligations.NormSwapsOnBigEndianHost : Prop :=
  ∀ w : BitVec 8,
    decode (0x21000000#32 ||| w.setWidth 32) = .ok (.norm w) ∧
    ∀ s : State, s.isFatal = false →
      (legalWidth w = true → s.cfg.getLsbD 0 = true → exec (.norm w) s = exec (.bswap w) s ∧
        ∃ v, exec (.norm w) s = .next { s with d := v, st := s.st &&& 0xF0#8 } ∧
          ∀ i < 8, dByte v i = if i < w.toNat then dByte s.d (w.toNat - 1 - i) else dByte s.d i) ∧
      (legalWidth w = true → s.cfg.getLsbD 0 = false → exec (.norm w) s = .next { s with st := s.st &&& 0xF0#8 }) ∧
      (legalWidth w = false → exec (.norm w) s = .next { s with st := (s.st &&& 0x0F#8) ||| 0x90#8 })

/-- R84: NORMM's word; on a big-endian host the `w` bytes at `OFF` are reversed in place and no other byte and no
register but `ST` changes, on a little-endian host no byte changes; `Fatal(BadWidth)`, then `BufferTooSmall` on either
host. -/
def Obligations.NormmReversesFieldInPlace : Prop :=
  ∀ w : BitVec 8,
    decode (0x22000000#32 ||| w.setWidth 32) = .ok (.normm w) ∧
    ∀ s : State, s.isFatal = false →
      (legalWidth w = true → s.off.toNat + w.toNat ≤ s.bufSize → s.cfg.getLsbD 0 = true →
        ∃ u, exec (.normm w) s = .next u ∧ u = { s with buf := u.buf, st := s.st &&& 0xF0#8 } ∧
          ∀ a, u.bufByte a =
            if s.off.toNat ≤ a ∧ a < s.off.toNat + w.toNat then
              s.bufByte (s.off.toNat + (w.toNat - 1 - (a - s.off.toNat)))
            else s.bufByte a) ∧
      (legalWidth w = true → s.off.toNat + w.toNat ≤ s.bufSize → s.cfg.getLsbD 0 = false →
        exec (.normm w) s = .next { s with st := s.st &&& 0xF0#8 }) ∧
      (legalWidth w = true → s.bufSize < s.off.toNat + w.toNat →
        exec (.normm w) s = .next { s with st := (s.st &&& 0xF0#8) ||| 1#8 }) ∧
      (legalWidth w = false → exec (.normm w) s = .next { s with st := (s.st &&& 0x0F#8) ||| 0x90#8 })

/-- R85: LDN's word; `D` is the `w`-byte number at `OFF` assembled in the host's order, zero-extended; `Fatal(BadWidth)`,
then `BufferTooSmall` with `D` unchanged. -/
def Obligations.LdnLoadsInHostOrder : Prop :=
  ∀ w : BitVec 8,
    decode (0x23000000#32 ||| w.setWidth 32) = .ok (.ldn w) ∧
    ∀ s : State, s.isFatal = false →
      (legalWidth w = true → s.off.toNat + w.toNat ≤ s.bufSize →
        ∃ v, exec (.ldn w) s = .next { s with d := v, st := s.st &&& 0xF0#8 } ∧
          ∀ i < 8, dByte v i =
            if i < w.toNat then
              (if s.cfg.getLsbD 0 = true then s.bufByte (s.off.toNat + (w.toNat - 1 - i))
               else s.bufByte (s.off.toNat + i))
            else 0#8) ∧
      (legalWidth w = true → s.bufSize < s.off.toNat + w.toNat →
        exec (.ldn w) s = .next { s with st := (s.st &&& 0xF0#8) ||| 1#8 }) ∧
      (legalWidth w = false → exec (.ldn w) s = .next { s with st := (s.st &&& 0x0F#8) ||| 0x90#8 })

/-- R86: STN's word; the low `w` bytes of `D` at `OFF` in the host's order, no other byte and no register but `ST`;
`Fatal(BadWidth)`, then `BufferTooSmall` with nothing written. -/
def Obligations.StnStoresInHostOrder : Prop :=
  ∀ w : BitVec 8,
    decode (0x24000000#32 ||| w.setWidth 32) = .ok (.stn w) ∧
    ∀ s : State, s.isFatal = false →
      (legalWidth w = true → s.off.toNat + w.toNat ≤ s.bufSize →
        ∃ u, exec (.stn w) s = .next u ∧ u = { s with buf := u.buf, st := s.st &&& 0xF0#8 } ∧
          ∀ a, u.bufByte a =
            if s.off.toNat ≤ a ∧ a < s.off.toNat + w.toNat then
              (if s.cfg.getLsbD 0 = true then dByte s.d (w.toNat - 1 - (a - s.off.toNat))
               else dByte s.d (a - s.off.toNat))
            else s.bufByte a) ∧
      (legalWidth w = true → s.bufSize < s.off.toNat + w.toNat →
        exec (.stn w) s = .next { s with st := (s.st &&& 0xF0#8) ||| 1#8 }) ∧
      (legalWidth w = false → exec (.stn w) s = .next { s with st := (s.st &&& 0x0F#8) ||| 0x90#8 })

/-- R87: LDF's word; `D` is the little-endian number at `OFF` on either host, zero-extended, `BUF` unchanged;
`Fatal(BadWidth)`, then `BufferTooSmall` with `D` unchanged. -/
def Obligations.LdfLoadsWireField : Prop :=
  ∀ w : BitVec 8,
    decode (0x25000000#32 ||| w.setWidth 32) = .ok (.ldf w) ∧
    ∀ s : State, s.isFatal = false →
      (legalWidth w = true → s.off.toNat + w.toNat ≤ s.bufSize →
        ∃ v, exec (.ldf w) s = .next { s with d := v, st := s.st &&& 0xF0#8 } ∧
          ∀ i < 8, dByte v i = if i < w.toNat then s.bufByte (s.off.toNat + i) else 0#8) ∧
      (legalWidth w = true → s.bufSize < s.off.toNat + w.toNat →
        exec (.ldf w) s = .next { s with st := (s.st &&& 0xF0#8) ||| 1#8 }) ∧
      (legalWidth w = false → exec (.ldf w) s = .next { s with st := (s.st &&& 0x0F#8) ||| 0x90#8 })

/-- R88: STF's word; byte `i` of `D` at `OFF + i` for `i < w` on either host, no other byte and no register but `ST`;
`Fatal(BadWidth)`, then `BufferTooSmall` with nothing written. -/
def Obligations.StfStoresWireField : Prop :=
  ∀ w : BitVec 8,
    decode (0x26000000#32 ||| w.setWidth 32) = .ok (.stf w) ∧
    ∀ s : State, s.isFatal = false →
      (legalWidth w = true → s.off.toNat + w.toNat ≤ s.bufSize →
        ∃ u, exec (.stf w) s = .next u ∧ u = { s with buf := u.buf, st := s.st &&& 0xF0#8 } ∧
          ∀ a, u.bufByte a =
            if s.off.toNat ≤ a ∧ a < s.off.toNat + w.toNat then dByte s.d (a - s.off.toNat) else s.bufByte a) ∧
      (legalWidth w = true → s.bufSize < s.off.toNat + w.toNat →
        exec (.stf w) s = .next { s with st := (s.st &&& 0xF0#8) ||| 1#8 }) ∧
      (legalWidth w = false → exec (.stf w) s = .next { s with st := (s.st &&& 0x0F#8) ||| 0x90#8 })

/-! ### Encodings and decoding -/

/-- Words written out from the formats R47 to R51 decode to the commands they spell (R57, spec/95_test_vectors.md). -/
def Obligations.SampleWordsDecode : Prop :=
  decode 0x01000018#32 = .ok (.setoff 0x18#24) ∧ decode 0x02000038#32 = .ok (.setlen 56#24) ∧
  decode 0x03034042#32 = .ok (.setd 3#2 0x4042#16) ∧ decode 0x11000061#32 = .ok (.ckb 0x61#8) ∧
  decode 0x16000000#32 = .ok .ckvfy ∧ decode 0x260000FF#32 = .ok (.stf 255#8) ∧
  decode 0x03040000#32 = .error .reservedBitSet ∧ decode 0x7F000000#32 = .error .unassignedOpcode

/-- Decoding a command's word gives the command back, with every value of every operand. -/
def Obligations.DecodeEncodeAgree : Prop := ∀ i : Instr, decode (encode i) = .ok i

/-- Two legal words that decode to the same command are the same word: a decoded word is the encoding of its command
(R59). -/
def Obligations.EncodeDecodeAgree : Prop := ∀ (c : CmdWord) (i : Instr), decode c = .ok i → encode i = c

/-- A word decodes to the command of a row of the opcode map exactly when it fits that row; a word that decodes fits a
row; no word fits two rows; `opcodeRows` has the 18 rows of R52. -/
def Obligations.DecoderAcceptsOpcodeMap : Prop :=
  (∀ (c : CmdWord) (r : OpcodeRow), r ∈ opcodeRows →
    (r.fits c = true ↔ ∃ i, decode c = .ok i ∧ mnemonic i = r.mnemonic)) ∧
  (∀ (c : CmdWord) (i : Instr), decode c = .ok i → legalWord c = true) ∧
  (∀ (c : CmdWord) (r r' : OpcodeRow), r ∈ opcodeRows → r' ∈ opcodeRows → r.fits c = true → r'.fits c = true → r = r') ∧
  opcodeRows.length = 18

/-! ### One step -/

/-- R109: a command word that decodes is run as its command, from the state in which the word has been taken from the
host's list and the index of the list has advanced (R17). -/
def Obligations.StepRunsDecodedCommand : Prop :=
  ∀ (s : State) (c : CmdWord) (q : List HostAction) (i : Instr),
    s.pending = .command c :: q → decode c = .ok i → step s = exec i { s with pending := q, pc := s.pc + 1 }

/-- The word placed by `withFetchWord` is the one the next step runs (log entry 5: the host's list is the model's). -/
def Obligations.PlacedWordRunsNext : Prop :=
  ∀ (s : State) (c : CmdWord) (i : Instr),
    decode c = .ok i → step (s.withFetchWord 32 c.toNat) = exec i { s with pc := s.pc + 1 }

/-- R55: the 238 unassigned `OPC` values spell no command; a word that fits no row of the opcode map raises
`Fatal(IllegalCommand)`, and nothing else of the block changes, `ERR` included. -/
def Obligations.IllegalWordIsFatal : Prop :=
  (∀ c : CmdWord,
    let opc := (c >>> 24).toNat
    (0x04 ≤ opc ∧ opc ≤ 0x0F ∨ 0x17 ≤ opc ∧ opc ≤ 0x1F ∨ 0x27 ≤ opc) → ∀ r ∈ opcodeRows, c &&& r.mask ≠ r.value) ∧
  (∀ (s : State) (c : CmdWord) (q : List HostAction),
    s.pending = .command c :: q → s.isFatal = false → (∀ r ∈ opcodeRows, c &&& r.mask ≠ r.value) →
    step s = .next { s with pending := q, pc := s.pc + 1, st := (s.st &&& 0x0F#8) ||| 0xA0#8 })

/-- R112, R109 line 1: while `ST.FATAL = 1` every command, and every command word, legal or not, is discarded. -/
def Obligations.FatalDiscardsCommands : Prop :=
  ∀ s : State, s.isFatal = true →
    (∀ i : Instr, exec i s = .next s) ∧
    (∀ (c : CmdWord) (q : List HostAction), s.pending = .command c :: q →
      step s = .next { s with pending := q, pc := s.pc + 1 })

/-- R81: each of the seven width commands with any other width is `Fatal(BadWidth)`, on either host and whatever the
buffer, and nothing but FATAL and FCAUSE changes. -/
def Obligations.BadWidthIsFatal : Prop :=
  ∀ (w : BitVec 8) (s : State), s.isFatal = false → w ≠ 1#8 → w ≠ 2#8 → w ≠ 4#8 → w ≠ 8#8 →
    ∀ i ∈ [Instr.bswap w, .norm w, .normm w, .ldn w, .stn w, .ldf w, .stf w],
      exec i s = .next { s with st := (s.st &&& 0x0F#8) ||| 0x90#8 }

/-- R37: a command that needs bytes of the buffer that do not exist changes nothing but `ERR`, which is BufferTooSmall;
one whose bytes all exist does not report BufferTooSmall. Sums of natural numbers. -/
def Obligations.BoundsTestGuardsBuffer : Prop :=
  ∀ (i : Instr) (s : State) (n : Nat), s.isFatal = false → i.widthLegal = true → needs s i = some n →
    (s.bufSize < s.off.toNat + n → exec i s = .next { s with st := (s.st &&& 0xF0#8) ||| 1#8 }) ∧
    (s.off.toNat + n ≤ s.bufSize → ∃ t, exec i s = .next t ∧ stErr t.st ≠ 1#4 ∧ t.isFatal = false)

/-- R113: when several conditions hold for one command word the first of these is reported: already fatal (discard),
IllegalCommand, BadWidth, BufferTooSmall, and ChecksumMismatch, which only CKVFY reports. -/
def Obligations.ConditionsHavePriority : Prop :=
  ∀ (s : State) (c : CmdWord) (q : List HostAction), s.pending = .command c :: q →
    let t : State := { s with pending := q, pc := s.pc + 1 }
    (s.isFatal = true → step s = .next t) ∧
    (s.isFatal = false → legalWord c = false → step s = .next { t with st := (s.st &&& 0x0F#8) ||| 0xA0#8 }) ∧
    (s.isFatal = false → ∀ i, decode c = .ok i →
      (i.widthLegal = false → step s = .next { t with st := (s.st &&& 0x0F#8) ||| 0x90#8 }) ∧
      (i.widthLegal = true →
        (∀ n, needs s i = some n → s.bufSize < s.off.toNat + n →
          step s = .next { t with st := (s.st &&& 0xF0#8) ||| 1#8 }) ∧
        ((∀ n, needs s i = some n → s.off.toNat + n ≤ s.bufSize) →
          ∃ u, step s = .next u ∧ u.isFatal = false ∧ (stErr u.st = 0#4 ∨ (stErr u.st = 2#4 ∧ i = .ckvfy)))))

/-- R106, R107: a command that executes ends in success or error with FATAL still 0 and `ERR` 0, 1 or 2, or it is fatal
with BadWidth and nothing but FATAL and FCAUSE changes. -/
def Obligations.CommandEndsOneOfThreeWays : Prop :=
  ∀ (i : Instr) (s : State), s.isFatal = false →
    ∃ t, exec i s = .next t ∧
      ((t.isFatal = false ∧ stCause t.st = stCause s.st ∧ (stErr t.st = 0#4 ∨ stErr t.st = 1#4 ∨ stErr t.st = 2#4)) ∨
       (i.widthLegal = false ∧ t = { s with st := (s.st &&& 0x0F#8) ||| 0x90#8 }))

/-! ### What no command changes -/

/-- R13: a register changes only under the commands its "Written by" entry names, and no command changes `CFG`, the
buffer's size, the host's list or its index. -/
def Obligations.OnlyNamedWritersChangeRegisters : Prop :=
  ∀ (i : Instr) (s t : State), exec i s = .next t →
    (writesD i = false → t.d = s.d) ∧ (writesOff i = false → t.off = s.off) ∧ (writesLen i = false → t.len = s.len) ∧
    (writesAcc i = false → t.a1 = s.a1 ∧ t.a2 = s.a2 ∧ t.cnt = s.cnt) ∧ (writesCk i = false → t.ck = s.ck) ∧
    (writesBuf i = false → t.buf = s.buf) ∧
    t.cfg = s.cfg ∧ t.bufSize = s.bufSize ∧ t.pending = s.pending ∧ t.pc = s.pc

/-- R31: a byte of `BUF` that a command changes lies in the bytes R31 says it writes, all of them inside the buffer; and
a command that R31 gives no access to `BUF` has the same effect whatever `BUF` holds. -/
def Obligations.OnlyNamedBytesAreTouched : Prop :=
  (∀ (i : Instr) (s t : State) (a : Nat), exec i s = .next t → t.bufByte a ≠ s.bufByte a →
    a < s.bufSize ∧
    ((i = .ckput ∧ (a = s.off.toNat + s.len.toNat ∨ a = s.off.toNat + s.len.toNat + 1)) ∨
     (∃ w, (i = .stn w ∨ i = .stf w ∨ (i = .normm w ∧ s.cfg.getLsbD 0 = true)) ∧
        s.off.toNat ≤ a ∧ a < s.off.toNat + w.toNat))) ∧
  (∀ (i : Instr) (s : State) (m : Memory), needs s i = none →
    ∃ t, exec i s = .next t ∧ exec i { s with buf := m } = .next { t with buf := m })

/-- R24, R7: no step changes `HOST_BE` or the buffer's size. That a reset keeps `HOST_BE` is the model's choice (log
entry 2). -/
def Obligations.StrapAndSizeAreConstant : Prop :=
  ∀ s t : State, step s = .next t → t.hostBE = s.hostBE ∧ t.bufSize = s.bufSize

/-- R23: once FATAL is 1, no step but a reset changes `ST`. -/
def Obligations.OnlyResetClearsFatal : Prop :=
  ∀ s t : State, s.isFatal = true → s.pending.head? ≠ some .reset → step s = .next t → t.st = s.st

/-! ### The host's actions and reset -/

/-- R122 with R29: reset gives every register its reset value, `CFG` shows the strap, `BUF` is not touched. That the strap
is the same after the reset as before it is the model's choice (log entry 2). -/
def Obligations.ResetGivesResetValues : Prop :=
  ∀ (s : State) (q : List HostAction), s.pending = .reset :: q →
    step s = .next
      { s with d := 0#64, off := 0#24, len := 0#24, a1 := 0x00FF#16, a2 := 0x00FF#16, cnt := 0#5, ck := 0xFFFF#16,
               st := 0x00#8, cfg := s.cfg &&& 1#8, pending := q }

/-- R43, R132 and the model's own stop (log entry 8): a byte the host writes is the byte the buffer holds afterwards, and
no other byte and no register changes; there is no byte to write at `BUF_SIZE` or beyond. -/
def Obligations.HostWriteChangesOneByte : Prop :=
  ∀ (s : State) (a : Offset) (b : Byte) (q : List HostAction), s.pending = .writeByte a b :: q →
    (a.toNat < s.bufSize →
      ∃ t, step s = .next t ∧ t = { s with buf := t.buf, pending := q } ∧
        ∀ x, t.bufByte x = if x = a.toNat then b else s.bufByte x) ∧
    (s.bufSize ≤ a.toNat → step s = .fault .noSuchByte)

/-! ### Invariants -/

/-- The state after reset meets the invariants. -/
def Obligations.InvariantsHoldAtReset : Prop := State.reset.Inv

/-- Every step keeps the invariants: the buffer's canonical form inside the buffer, the accumulators' bounds, no zero byte
in `CK`, a legal status register, the reserved bits of `CFG` 0. -/
def Obligations.EveryStepKeepsInvariants : Prop :=
  ∀ s t : State, s.Inv → step s = .next t → t.Inv

/-- R28: in every state reached from a reset, whatever the buffer and the host's actions, (a) `CNT` is at most 19, (b) at
a chunk start both accumulators are from 1 to 0x1FE, (c) the accumulators' bounds, and the additions of the next byte do
not wrap, (d) neither byte of `CK` is 0x00. -/
def Obligations.AccumulatorsNeverWrap : Prop :=
  ∀ (s t : State) (n : Nat), Host.Core.run core n s.afterReset = .next t →
    t.cnt.toNat ≤ 19 ∧
    (t.cnt = 0#5 → 1 ≤ t.a1.toNat ∧ t.a1.toNat ≤ 0x1FE ∧ 1 ≤ t.a2.toNat ∧ t.a2.toNat ≤ 0x1FE) ∧
    (1 ≤ t.a1.toNat ∧ t.a1.toNat ≤ 0x1FE + 255 * t.cnt.toNat ∧ 1 ≤ t.a2.toNat ∧ t.a2.toNat ≤ 64260) ∧
    (∀ b : Byte, t.a1.toNat + b.toNat < 2 ^ 16 ∧ t.a2.toNat + (t.a1.toNat + b.toNat) < 2 ^ 16) ∧
    1 ≤ (t.ck.extractLsb' 0 8).toNat ∧ 1 ≤ (t.ck.extractLsb' 8 8).toNat

/-! ### The checksum function -/

/-- R63: absorbing the bytes of a list one by one from the seed and finishing leaves `Fletcher` of the list in `CK`. -/
def Obligations.StreamComputesFletcher : Prop :=
  ∀ (s : State) (bs : List Byte), s.a1 = 0x00FF#16 → s.a2 = 0x00FF#16 → s.cnt = 0#5 →
    (bs.foldl State.absorb s).finish.ck = fletcher bs

/-- R65: the two bytes of `Fletcher` are the plain and the weighted sum modulo 255, with 0xFF for the residue 0. -/
def Obligations.FletcherClosedForm : Prop :=
  ∀ bs : List Byte,
    ((fletcher bs).extractLsb' 0 8).toNat = residueByte (plainSum bs) ∧
    ((fletcher bs).extractLsb' 8 8).toNat = residueByte (weightedSum bs)

/-- R75: a third fold after two changes nothing. -/
def Obligations.ThirdFoldIsIdentity : Prop :=
  ∀ bs : List Byte,
    (chunkLoop bs.length ⟨0x00FF#16, 0x00FF#16⟩ bs).fold.fold = (chunkLoop bs.length ⟨0x00FF#16, 0x00FF#16⟩ bs).fold

/-- R66: (a) every single-bit change of a byte list changes the low byte of its checksum; (b) a byte 0x00 in place of
0xFF does not change the checksum; (c) the order of the bytes matters. -/
def Obligations.SingleBitErrorsAreDetected : Prop :=
  (∀ (bs cs : List Byte) (b : Byte) (k : Nat), k < 8 →
    (fletcher (bs ++ (b ^^^ (1#8 <<< k)) :: cs)).extractLsb' 0 8 ≠ (fletcher (bs ++ b :: cs)).extractLsb' 0 8) ∧
  (∀ bs cs : List Byte, fletcher (bs ++ 0x00#8 :: cs) = fletcher (bs ++ 0xFF#8 :: cs)) ∧
  (∃ b c : Byte, fletcher [b, c] ≠ fletcher [c, b])

/-- R66 (a) at the machine: a frame that CKVFY accepts is rejected with ChecksumMismatch once any single bit of a covered
byte is flipped. -/
def Obligations.FlippedBitFailsVerification : Prop :=
  ∀ (s t : State) (i k : Nat), s.isFatal = false → s.off.toNat + s.len.toNat + 2 ≤ s.bufSize → i < s.len.toNat → k < 8 →
    exec .ckvfy s = .next t → stErr t.st = 0#4 →
    ∃ u, exec .ckvfy (s.setByte (s.off.toNat + i) (s.bufByte (s.off.toNat + i) ^^^ (1#8 <<< k))) = .next u ∧
      stErr u.st = 2#4 ∧ u.isFatal = false

/-- R73's corner case: after CKRANGE and CKPUT with the same `OFF` and `LEN`, CKVFY succeeds with the same `CK`. -/
def Obligations.SealedRangeVerifies : Prop :=
  ∀ s : State, s.isFatal = false → s.off.toNat + s.len.toNat + 2 ≤ s.bufSize →
    ∃ u t, runAll [.ckrange, .ckput] s = some u ∧ exec .ckvfy u = .next t ∧ stErr t.st = 0#4 ∧ t.isFatal = false ∧
      t.ck = u.ck

/-- R69, R74: a range fed in two pieces leaves the same stream as the range fed at once. -/
def Obligations.StreamFeedsInPieces : Prop :=
  ∀ (s : State) (o n m p q : BitVec 24), s.isFatal = false → p.toNat = o.toNat + n.toNat → q.toNat = n.toNat + m.toNat →
    o.toNat + n.toNat + m.toNat ≤ s.bufSize →
    ∃ t u, runAll [.setoff o, .setlen n, .ckabs, .setoff p, .setlen m, .ckabs] s = some t ∧
      runAll [.setoff o, .setlen q, .ckabs] s = some u ∧
      t.a1 = u.a1 ∧ t.a2 = u.a2 ∧ t.cnt = u.cnt ∧ stErr t.st = 0#4 ∧ stErr u.st = 0#4

/-- R74: what CKRANGE and CKVFY leave in `CK` depends on `OFF`, `LEN` and the bytes of the range alone, and CKFIN, CKRANGE
and CKVFY leave the accumulators at the seed. -/
def Obligations.ChecksumKeepsNoState : Prop :=
  (∀ s s' : State, s.isFatal = false → s'.isFatal = false → s.off = s'.off → s.len = s'.len →
    (∀ i < s.len.toNat, s.bufByte (s.off.toNat + i) = s'.bufByte (s.off.toNat + i)) →
    ∀ i n, (i = Instr.ckrange ∧ n = 0 ∨ i = .ckvfy ∧ n = 2) →
      s.off.toNat + s.len.toNat + n ≤ s.bufSize → s'.off.toNat + s'.len.toNat + n ≤ s'.bufSize →
      ∃ t t', exec i s = .next t ∧ exec i s' = .next t' ∧ t.ck = t'.ck ∧
        t.a1 = 0x00FF#16 ∧ t.a2 = 0x00FF#16 ∧ t.cnt = 0#5) ∧
  (∀ s : State, s.isFatal = false →
    ∃ u, exec .ckfin s = .next u ∧ u.a1 = 0x00FF#16 ∧ u.a2 = 0x00FF#16 ∧ u.cnt = 0#5)

/-! ### Byte order -/

/-- R35: on either host a wire read is the little-endian number of the bytes and a wire write stores the little-endian
bytes of the number; and a 2-byte wire value read back by two 1-byte wire reads gives its low byte, then its high byte. R35
speaks of offsets inside `BUF`; at the others this is the model's choice (log entry 13). -/
def Obligations.WireAccessIsLittleEndian : Prop :=
  ∀ (s : State) (a w v : Nat),
    s.wireRead a w = leNat (s.memRead a w) ∧
    s.wireWrite a w v = s.memWrite a (bytesLe v w) ∧
    (v < 65536 → (s.wireWrite a 2 v).wireRead a 1 = v % 256 ∧ (s.wireWrite a 2 v).wireRead (a + 1) 1 = v / 256)

/-- R89 (a), (b), (c), for every width in bytes. -/
def Obligations.SwapIsSelfInverse : Prop :=
  ∀ (w v : Nat), v < 256 ^ w →
    bswapNat w (bswapNat w v) = v ∧ (w = 1 → bswapNat w v = v) ∧
    ∀ be : Bool, normalizeNat be w (normalizeNat be w v) = v

/-- R89 (d): BSWAP, NORM and NORMM of one width twice leave everything as it was, `ERR` 0 apart. -/
def Obligations.SwapCommandsTwiceRestore : Prop :=
  ∀ (w : BitVec 8) (s : State), s.isFatal = false → legalWidth w = true →
    runAll [.bswap w, .bswap w] s = some { s with st := s.st &&& 0xF0#8 } ∧
    runAll [.norm w, .norm w] s = some { s with st := s.st &&& 0xF0#8 } ∧
    (s.off.toNat + w.toNat ≤ s.bufSize →
      ∃ t, runAll [.normm w, .normm w] s = some t ∧ t = { s with buf := t.buf, st := s.st &&& 0xF0#8 } ∧
        ∀ a, t.bufByte a = s.bufByte a)

/-- R89 (e) to (h): LDF is LDN then NORM, STF is NORM, STN, NORM, NORMM then LDN loads what LDF loads, and STF then LDF
gives the low `w` bytes of the old `D`, zero-extended. -/
def Obligations.FusedAccessesCompose : Prop :=
  ∀ (w : BitVec 8) (s : State), s.isFatal = false → legalWidth w = true → s.off.toNat + w.toNat ≤ s.bufSize →
    ∃ e f g h : State,
      runAll [.ldf w] s = some e ∧ runAll [.ldn w, .norm w] s = some e ∧
      runAll [.stf w] s = some f ∧ runAll [.norm w, .stn w, .norm w] s = some f ∧
      runAll [.normm w, .ldn w] s = some g ∧ g.d = e.d ∧
      runAll [.stf w, .ldf w] s = some h ∧
      ∀ i < 8, dByte h.d i = if i < w.toNat then dByte s.d i else 0#8

/-- R90: every command but LDN, STN, NORM and NORMM has the same effect on a big-endian and on a little-endian host, and
each of those four has an effect that differs. -/
def Obligations.OnlyFourCommandsDependOnHost : Prop :=
  (∀ (i : Instr) (s : State) (c : BitVec 8), hostDependent i = false →
    ∃ t, exec i s = .next t ∧ exec i { s with cfg := c } = .next { t with cfg := c }) ∧
  (∃ s : State, ∀ i ∈ [Instr.ldn 2#8, .stn 2#8, .norm 2#8, .normm 2#8],
    ∃ t u, exec i { s with cfg := 0#8 } = .next t ∧ exec i { s with cfg := 1#8 } = .next u ∧
      (t.d ≠ u.d ∨ ∃ a, t.bufByte a ≠ u.bufByte a))

/-- R90, the document's endian equivalence: a field stored by STF on one host is loaded by LDF on another as the same
value, and a range sealed by CKRANGE and CKPUT on one host is accepted by CKVFY on another. -/
def Obligations.FrameCrossesHosts : Prop :=
  ∀ (s : State) (c : BitVec 8), s.isFatal = false →
    (∀ w : BitVec 8, legalWidth w = true → s.off.toNat + w.toNat ≤ s.bufSize →
      ∃ t u, exec (.stf w) s = .next t ∧ exec (.ldf w) { t with cfg := c } = .next u ∧
        ∀ i < 8, dByte u.d i = if i < w.toNat then dByte s.d i else 0#8) ∧
    (s.off.toNat + s.len.toNat + 2 ≤ s.bufSize →
      ∃ t u, runAll [.ckrange, .ckput] s = some t ∧ exec .ckvfy { t with cfg := c } = .next u ∧
        stErr u.st = 0#4 ∧ u.isFatal = false ∧ u.ck = t.ck)

/-! ### The host's pseudo-instructions -/

/-- R58: `LDD imm64` loads all of `D`. -/
def Obligations.LddLoadsAllOfD : Prop :=
  ∀ (v : BitVec 64) (s : State), s.isFatal = false →
    runAll (pseudoLdd v) s = some { s with d := v, st := s.st &&& 0xF0#8 }

/-- R58, R93, R94: `NORMHDR.REQ` and `NORMHDR.RSP` are the normalization of the two headers by their field tables; and
normalizing a header of either kind twice restores every byte. -/
def Obligations.HeaderNormalizationUndoesItself : Prop :=
  (∀ base : Nat, pseudoNormhdrReq base = normalizeStruct .requestHeader base ∧
    pseudoNormhdrRsp base = normalizeStruct .responseHeader base) ∧
  (∀ (s : State) (base n : Nat) (is : List Instr), s.isFatal = false →
    (pseudoNormhdrReq base = some is ∧ n = 8 ∨ pseudoNormhdrRsp base = some is ∧ n = 4) → base + n ≤ s.bufSize →
    ∃ t, runAll (is ++ is) s = some t ∧ stErr t.st = 0#4 ∧ ∀ a, t.bufByte a = s.bufByte a)

/-- R93: normalizing a struct of any kind whose fields lie inside the buffer does not depend on the order in which the
fields are taken, and doing it twice restores every byte. -/
def Obligations.StructNormalizationAnyOrder : Prop :=
  ∀ (k : StructKind) (s : State) (base : Nat) (is : List Instr), s.isFatal = false →
    normalizeStruct k base = some is → (∀ f ∈ fieldTable k, base + f.1 + f.2.bytes ≤ s.bufSize) →
    ∃ t, runAll is s = some t ∧ t.isFatal = false ∧
      (∀ (fs : List (Nat × Width)), fs.Perm (fieldTable k) →
        ∃ js u, normalizeFields base fs = some js ∧ runAll js s = some u ∧ ∀ a, u.bufByte a = t.bufByte a) ∧
      ∃ u, runAll is t = some u ∧ ∀ a, u.bufByte a = s.bufByte a

/-! ### Frames and runs -/

/-- R40, R41: the regions of a frame cover its bytes, each byte lying in one region; LDF of the payload-length field gives
`P`; and sealing a frame inside the buffer puts the checksum of its `H + P` bytes, low byte first, right after them and
changes no other byte. -/
def Obligations.FrameIsLaidOutAndSealed : Prop :=
  (∀ (k : FrameKind) (base p a : Nat),
    (base ≤ a ∧ a < base + k.frameBytes p ↔ ∃ r x, k.region base p r = some x ∧ x.1 ≤ a ∧ a < x.1 + x.2) ∧
    ∀ r r' x x', k.region base p r = some x → k.region base p r' = some x' →
      x.1 ≤ a → a < x.1 + x.2 → x'.1 ≤ a → a < x'.1 + x'.2 → r = r') ∧
  (∀ (s : State) (base : Nat) (i : Instr), s.isFatal = false → asmSetoff (payloadLenAt base) = some i →
    base + 4 ≤ s.bufSize →
    ∃ t, runAll [i, .ldf 2#8] s = some t ∧ stErr t.st = 0#4 ∧ t.d.toNat = s.payloadBytes base) ∧
  (∀ (k : FrameKind) (s : State) (base : Nat) (is : List Instr), s.isFatal = false → s.sealFrame k base = some is →
    base + k.frameBytes (s.payloadBytes base) ≤ s.bufSize →
    let e := k.trailerAt base (s.payloadBytes base)
    ∃ t, runAll is s = some t ∧ stErr t.st = 0#4 ∧ t.ck = fletcher (s.memRead base (s.coveredBytes k base)) ∧
      ∀ a, t.bufByte a =
        if a = e then t.ck.extractLsb' 0 8 else if a = e + 1 then t.ck.extractLsb' 8 8 else s.bufByte a)

/-- R134, R17: a run of `n` command words ends after `n` steps, with the index `n` higher, and it has not completed if
`ST.FATAL` was 1 after any of them. -/
def Obligations.RunOfCommandsEnds : Prop :=
  ∀ (s : State) (cs : List CmdWord), s.pending = cs.map .command →
    ∃ t : State, Host.Core.run core cs.length s = .next t ∧ t.ended = true ∧ t.pc = s.pc + cs.length ∧
      ∀ (m : Nat) (u : State), m ≤ cs.length → Host.Core.run core m s = .next u → u.faulted = true →
        t.completed = false

/-- R129: in `SEAL` and `NORMHDR.REQ` the last outcome is enough: if an earlier command of the expansion failed, the last
one fails too. -/
def Obligations.LastOutcomeIsEnough : Prop :=
  (∀ (s : State) (o n : BitVec 24), s.isFatal = false →
    ∃ u t, runAll [.setoff o, .setlen n, .ckrange] s = some u ∧ exec .ckput u = .next t ∧
      (stErr u.st ≠ 0#4 → stErr t.st ≠ 0#4)) ∧
  (∀ (s : State) (o p : BitVec 24), s.isFatal = false → o.toNat ≤ p.toNat →
    ∃ u t, runAll [.setoff o, .normm 2#8] s = some u ∧ runAll [.setoff p, .normm 4#8] u = some t ∧
      (stErr u.st ≠ 0#4 → stErr t.st ≠ 0#4))

/-- R121, R37: a buffer of no bytes is legal: CKRANGE and CKABS of the empty range at 0 succeed, the first with 0xFFFF, and
every other memory command, one with a nonzero length or width or a nonzero `OFF`, reports BufferTooSmall. -/
def Obligations.EmptyBufferIsLegal : Prop :=
  ∀ s : State, s.isFatal = false → s.bufSize = 0 →
    (s.off = 0#24 → s.len = 0#24 →
      exec .ckrange s = .next
        { s with ck := 0xFFFF#16, a1 := 0x00FF#16, a2 := 0x00FF#16, cnt := 0#5, st := s.st &&& 0xF0#8 } ∧
      exec .ckabs s = .next { s with st := s.st &&& 0xF0#8 }) ∧
    (∀ (i : Instr) (n : Nat), needs s i = some n → (0 < n ∨ s.off ≠ 0#24) → i.widthLegal = true →
      exec i s = .next { s with st := (s.st &&& 0xF0#8) ||| 1#8 })
end

