-- ==== Sys2Proof/Laws/Bytes.lean ====
section
/-! SUPPORT. Numbers and their byte lists: the two directions invert each other, and their sizes. -/

namespace Sys2Proof.Machine

@[simp] theorem bytesLe_length (v n : Nat) : (bytesLe v n).length = n := by
  induction n generalizing v with
  | zero => rfl
  | succ n ih => simp [bytesLe, ih]

@[simp] theorem bytesBe_length (v n : Nat) : (bytesBe v n).length = n := by simp [bytesBe]

/-- The number of `n` bytes is below 256^n. -/
theorem leNat_lt (bs : List Byte) : leNat bs < 256 ^ bs.length := by
  induction bs with
  | nil => simp [leNat]
  | cons b bs ih =>
    have := b.isLt
    simp only [leNat, List.length_cons, Nat.pow_succ]
    omega

/-- The bytes of the number of a byte list are the list. -/
theorem bytesLe_leNat (bs : List Byte) : bytesLe (leNat bs) bs.length = bs := by
  induction bs with
  | nil => rfl
  | cons b bs ih =>
    have hb := b.isLt
    simp only [leNat, List.length_cons, bytesLe]
    rw [show (b.toNat + 256 * leNat bs) / 256 = leNat bs by omega, ih]
    congr 1
    apply BitVec.eq_of_toNat_eq
    simp only [BitVec.toNat_ofNat]
    omega

/-- The number of the low `n` bytes of `v` is `v` modulo 256^n. -/
theorem leNat_bytesLe (v n : Nat) : leNat (bytesLe v n) = v % 256 ^ n := by
  induction n generalizing v with
  | zero => simp [bytesLe, leNat, Nat.mod_one]
  | succ n ih =>
    have h : 256 ^ (n + 1) = 256 * 256 ^ n := Nat.pow_succ'
    rw [bytesLe, leNat, ih, BitVec.toNat_ofNat, h, Nat.mod_mul]

/-- Byte `i` of a number. -/
theorem bytesLe_getElem? (v n i : Nat) (h : i < n) : (bytesLe v n)[i]? = some (BitVec.ofNat 8 (v / 256 ^ i)) := by
  induction n generalizing v i with
  | zero => omega
  | succ n ih =>
    cases i with
    | zero => simp [bytesLe]
    | succ i =>
      simp only [bytesLe, List.getElem?_cons_succ]
      rw [ih (v / 256) i (by omega), Nat.div_div_eq_div_mul, Nat.pow_succ, Nat.mul_comm 256]

/-- The bytes of a number depend on it modulo 256^n alone. -/
theorem bytesLe_mod (v n : Nat) : bytesLe (v % 256 ^ n) n = bytesLe v n := by
  have h := bytesLe_leNat (bytesLe v n)
  rwa [leNat_bytesLe, bytesLe_length] at h

/-- A byte-swapped number fits its width. -/
theorem bswapNat_lt (w v : Nat) : bswapNat w v < 256 ^ w := by
  have := leNat_lt (bytesLe v w).reverse
  simpa [bswapNat] using this

/-- A legal width is at most 8 bytes and at least 1. -/
theorem Width_bytes_pos_le (v : Width) : 1 ≤ v.bytes ∧ v.bytes ≤ 8 := by cases v <;> decide

/-- The width field spells a width exactly when it is legal. -/
theorem Width_ofField_isSome (w : BitVec 8) : (Width.ofField w).isSome = legalWidth w := by
  revert w; decide

/-- The width a field spells has the field's number of bytes. -/
theorem Width_ofField_bytes {w : BitVec 8} {v : Width} (h : Width.ofField w = some v) : v.bytes = w.toNat := by
  revert w v; decide

end Sys2Proof.Machine
end

