-- ==== Sys2Proof/Laws/State.lean ====
section
/-! SUPPORT. One lemma per field per update of the state, true by rfl, so that no proof unfolds a record update. -/

namespace Sys2Proof.Machine

/-! ### setD -/

@[simp] theorem State.setD_d (s : State) (v : BitVec 64) : (s.setD v).d = v := rfl
@[simp] theorem State.setD_off (s : State) (v : BitVec 64) : (s.setD v).off = s.off := rfl
@[simp] theorem State.setD_len (s : State) (v : BitVec 64) : (s.setD v).len = s.len := rfl
@[simp] theorem State.setD_a1 (s : State) (v : BitVec 64) : (s.setD v).a1 = s.a1 := rfl
@[simp] theorem State.setD_a2 (s : State) (v : BitVec 64) : (s.setD v).a2 = s.a2 := rfl
@[simp] theorem State.setD_cnt (s : State) (v : BitVec 64) : (s.setD v).cnt = s.cnt := rfl
@[simp] theorem State.setD_ck (s : State) (v : BitVec 64) : (s.setD v).ck = s.ck := rfl
@[simp] theorem State.setD_st (s : State) (v : BitVec 64) : (s.setD v).st = s.st := rfl
@[simp] theorem State.setD_cfg (s : State) (v : BitVec 64) : (s.setD v).cfg = s.cfg := rfl
@[simp] theorem State.setD_buf (s : State) (v : BitVec 64) : (s.setD v).buf = s.buf := rfl
@[simp] theorem State.setD_bufSize (s : State) (v : BitVec 64) : (s.setD v).bufSize = s.bufSize := rfl
@[simp] theorem State.setD_pending (s : State) (v : BitVec 64) : (s.setD v).pending = s.pending := rfl
@[simp] theorem State.setD_pc (s : State) (v : BitVec 64) : (s.setD v).pc = s.pc := rfl

/-! ### setOff -/

@[simp] theorem State.setOff_d (s : State) (v : Offset) : (s.setOff v).d = s.d := rfl
@[simp] theorem State.setOff_off (s : State) (v : Offset) : (s.setOff v).off = v := rfl
@[simp] theorem State.setOff_len (s : State) (v : Offset) : (s.setOff v).len = s.len := rfl
@[simp] theorem State.setOff_a1 (s : State) (v : Offset) : (s.setOff v).a1 = s.a1 := rfl
@[simp] theorem State.setOff_a2 (s : State) (v : Offset) : (s.setOff v).a2 = s.a2 := rfl
@[simp] theorem State.setOff_cnt (s : State) (v : Offset) : (s.setOff v).cnt = s.cnt := rfl
@[simp] theorem State.setOff_ck (s : State) (v : Offset) : (s.setOff v).ck = s.ck := rfl
@[simp] theorem State.setOff_st (s : State) (v : Offset) : (s.setOff v).st = s.st := rfl
@[simp] theorem State.setOff_cfg (s : State) (v : Offset) : (s.setOff v).cfg = s.cfg := rfl
@[simp] theorem State.setOff_buf (s : State) (v : Offset) : (s.setOff v).buf = s.buf := rfl
@[simp] theorem State.setOff_bufSize (s : State) (v : Offset) : (s.setOff v).bufSize = s.bufSize := rfl
@[simp] theorem State.setOff_pending (s : State) (v : Offset) : (s.setOff v).pending = s.pending := rfl
@[simp] theorem State.setOff_pc (s : State) (v : Offset) : (s.setOff v).pc = s.pc := rfl

/-! ### setLen -/

@[simp] theorem State.setLen_d (s : State) (v : BitVec 24) : (s.setLen v).d = s.d := rfl
@[simp] theorem State.setLen_off (s : State) (v : BitVec 24) : (s.setLen v).off = s.off := rfl
@[simp] theorem State.setLen_len (s : State) (v : BitVec 24) : (s.setLen v).len = v := rfl
@[simp] theorem State.setLen_a1 (s : State) (v : BitVec 24) : (s.setLen v).a1 = s.a1 := rfl
@[simp] theorem State.setLen_a2 (s : State) (v : BitVec 24) : (s.setLen v).a2 = s.a2 := rfl
@[simp] theorem State.setLen_cnt (s : State) (v : BitVec 24) : (s.setLen v).cnt = s.cnt := rfl
@[simp] theorem State.setLen_ck (s : State) (v : BitVec 24) : (s.setLen v).ck = s.ck := rfl
@[simp] theorem State.setLen_st (s : State) (v : BitVec 24) : (s.setLen v).st = s.st := rfl
@[simp] theorem State.setLen_cfg (s : State) (v : BitVec 24) : (s.setLen v).cfg = s.cfg := rfl
@[simp] theorem State.setLen_buf (s : State) (v : BitVec 24) : (s.setLen v).buf = s.buf := rfl
@[simp] theorem State.setLen_bufSize (s : State) (v : BitVec 24) : (s.setLen v).bufSize = s.bufSize := rfl
@[simp] theorem State.setLen_pending (s : State) (v : BitVec 24) : (s.setLen v).pending = s.pending := rfl
@[simp] theorem State.setLen_pc (s : State) (v : BitVec 24) : (s.setLen v).pc = s.pc := rfl

/-! ### setAcc -/

@[simp] theorem State.setAcc_d (s : State) (x y : BitVec 16) (c : BitVec 5) : (s.setAcc x y c).d = s.d := rfl
@[simp] theorem State.setAcc_off (s : State) (x y : BitVec 16) (c : BitVec 5) : (s.setAcc x y c).off = s.off := rfl
@[simp] theorem State.setAcc_len (s : State) (x y : BitVec 16) (c : BitVec 5) : (s.setAcc x y c).len = s.len := rfl
@[simp] theorem State.setAcc_a1 (s : State) (x y : BitVec 16) (c : BitVec 5) : (s.setAcc x y c).a1 = x := rfl
@[simp] theorem State.setAcc_a2 (s : State) (x y : BitVec 16) (c : BitVec 5) : (s.setAcc x y c).a2 = y := rfl
@[simp] theorem State.setAcc_cnt (s : State) (x y : BitVec 16) (c : BitVec 5) : (s.setAcc x y c).cnt = c := rfl
@[simp] theorem State.setAcc_ck (s : State) (x y : BitVec 16) (c : BitVec 5) : (s.setAcc x y c).ck = s.ck := rfl
@[simp] theorem State.setAcc_st (s : State) (x y : BitVec 16) (c : BitVec 5) : (s.setAcc x y c).st = s.st := rfl
@[simp] theorem State.setAcc_cfg (s : State) (x y : BitVec 16) (c : BitVec 5) : (s.setAcc x y c).cfg = s.cfg := rfl
@[simp] theorem State.setAcc_buf (s : State) (x y : BitVec 16) (c : BitVec 5) : (s.setAcc x y c).buf = s.buf := rfl
@[simp] theorem State.setAcc_bufSize (s : State) (x y : BitVec 16) (c : BitVec 5) : (s.setAcc x y c).bufSize = s.bufSize := rfl
@[simp] theorem State.setAcc_pending (s : State) (x y : BitVec 16) (c : BitVec 5) : (s.setAcc x y c).pending = s.pending := rfl
@[simp] theorem State.setAcc_pc (s : State) (x y : BitVec 16) (c : BitVec 5) : (s.setAcc x y c).pc = s.pc := rfl

/-! ### setCk -/

@[simp] theorem State.setCk_d (s : State) (v : BitVec 16) : (s.setCk v).d = s.d := rfl
@[simp] theorem State.setCk_off (s : State) (v : BitVec 16) : (s.setCk v).off = s.off := rfl
@[simp] theorem State.setCk_len (s : State) (v : BitVec 16) : (s.setCk v).len = s.len := rfl
@[simp] theorem State.setCk_a1 (s : State) (v : BitVec 16) : (s.setCk v).a1 = s.a1 := rfl
@[simp] theorem State.setCk_a2 (s : State) (v : BitVec 16) : (s.setCk v).a2 = s.a2 := rfl
@[simp] theorem State.setCk_cnt (s : State) (v : BitVec 16) : (s.setCk v).cnt = s.cnt := rfl
@[simp] theorem State.setCk_ck (s : State) (v : BitVec 16) : (s.setCk v).ck = v := rfl
@[simp] theorem State.setCk_st (s : State) (v : BitVec 16) : (s.setCk v).st = s.st := rfl
@[simp] theorem State.setCk_cfg (s : State) (v : BitVec 16) : (s.setCk v).cfg = s.cfg := rfl
@[simp] theorem State.setCk_buf (s : State) (v : BitVec 16) : (s.setCk v).buf = s.buf := rfl
@[simp] theorem State.setCk_bufSize (s : State) (v : BitVec 16) : (s.setCk v).bufSize = s.bufSize := rfl
@[simp] theorem State.setCk_pending (s : State) (v : BitVec 16) : (s.setCk v).pending = s.pending := rfl
@[simp] theorem State.setCk_pc (s : State) (v : BitVec 16) : (s.setCk v).pc = s.pc := rfl

/-! ### setSt -/

@[simp] theorem State.setSt_d (s : State) (v : BitVec 8) : (s.setSt v).d = s.d := rfl
@[simp] theorem State.setSt_off (s : State) (v : BitVec 8) : (s.setSt v).off = s.off := rfl
@[simp] theorem State.setSt_len (s : State) (v : BitVec 8) : (s.setSt v).len = s.len := rfl
@[simp] theorem State.setSt_a1 (s : State) (v : BitVec 8) : (s.setSt v).a1 = s.a1 := rfl
@[simp] theorem State.setSt_a2 (s : State) (v : BitVec 8) : (s.setSt v).a2 = s.a2 := rfl
@[simp] theorem State.setSt_cnt (s : State) (v : BitVec 8) : (s.setSt v).cnt = s.cnt := rfl
@[simp] theorem State.setSt_ck (s : State) (v : BitVec 8) : (s.setSt v).ck = s.ck := rfl
@[simp] theorem State.setSt_st (s : State) (v : BitVec 8) : (s.setSt v).st = v := rfl
@[simp] theorem State.setSt_cfg (s : State) (v : BitVec 8) : (s.setSt v).cfg = s.cfg := rfl
@[simp] theorem State.setSt_buf (s : State) (v : BitVec 8) : (s.setSt v).buf = s.buf := rfl
@[simp] theorem State.setSt_bufSize (s : State) (v : BitVec 8) : (s.setSt v).bufSize = s.bufSize := rfl
@[simp] theorem State.setSt_pending (s : State) (v : BitVec 8) : (s.setSt v).pending = s.pending := rfl
@[simp] theorem State.setSt_pc (s : State) (v : BitVec 8) : (s.setSt v).pc = s.pc := rfl

/-! ### setBuf -/

@[simp] theorem State.setBuf_d (s : State) (m : Memory) : (s.setBuf m).d = s.d := rfl
@[simp] theorem State.setBuf_off (s : State) (m : Memory) : (s.setBuf m).off = s.off := rfl
@[simp] theorem State.setBuf_len (s : State) (m : Memory) : (s.setBuf m).len = s.len := rfl
@[simp] theorem State.setBuf_a1 (s : State) (m : Memory) : (s.setBuf m).a1 = s.a1 := rfl
@[simp] theorem State.setBuf_a2 (s : State) (m : Memory) : (s.setBuf m).a2 = s.a2 := rfl
@[simp] theorem State.setBuf_cnt (s : State) (m : Memory) : (s.setBuf m).cnt = s.cnt := rfl
@[simp] theorem State.setBuf_ck (s : State) (m : Memory) : (s.setBuf m).ck = s.ck := rfl
@[simp] theorem State.setBuf_st (s : State) (m : Memory) : (s.setBuf m).st = s.st := rfl
@[simp] theorem State.setBuf_cfg (s : State) (m : Memory) : (s.setBuf m).cfg = s.cfg := rfl
@[simp] theorem State.setBuf_buf (s : State) (m : Memory) : (s.setBuf m).buf = m := rfl
@[simp] theorem State.setBuf_bufSize (s : State) (m : Memory) : (s.setBuf m).bufSize = s.bufSize := rfl
@[simp] theorem State.setBuf_pending (s : State) (m : Memory) : (s.setBuf m).pending = s.pending := rfl
@[simp] theorem State.setBuf_pc (s : State) (m : Memory) : (s.setBuf m).pc = s.pc := rfl

/-! ### setPending -/

@[simp] theorem State.setPending_d (s : State) (q : List HostAction) : (s.setPending q).d = s.d := rfl
@[simp] theorem State.setPending_off (s : State) (q : List HostAction) : (s.setPending q).off = s.off := rfl
@[simp] theorem State.setPending_len (s : State) (q : List HostAction) : (s.setPending q).len = s.len := rfl
@[simp] theorem State.setPending_a1 (s : State) (q : List HostAction) : (s.setPending q).a1 = s.a1 := rfl
@[simp] theorem State.setPending_a2 (s : State) (q : List HostAction) : (s.setPending q).a2 = s.a2 := rfl
@[simp] theorem State.setPending_cnt (s : State) (q : List HostAction) : (s.setPending q).cnt = s.cnt := rfl
@[simp] theorem State.setPending_ck (s : State) (q : List HostAction) : (s.setPending q).ck = s.ck := rfl
@[simp] theorem State.setPending_st (s : State) (q : List HostAction) : (s.setPending q).st = s.st := rfl
@[simp] theorem State.setPending_cfg (s : State) (q : List HostAction) : (s.setPending q).cfg = s.cfg := rfl
@[simp] theorem State.setPending_buf (s : State) (q : List HostAction) : (s.setPending q).buf = s.buf := rfl
@[simp] theorem State.setPending_bufSize (s : State) (q : List HostAction) : (s.setPending q).bufSize = s.bufSize := rfl
@[simp] theorem State.setPending_pending (s : State) (q : List HostAction) : (s.setPending q).pending = q := rfl
@[simp] theorem State.setPending_pc (s : State) (q : List HostAction) : (s.setPending q).pc = s.pc := rfl

/-! ### setPc -/

@[simp] theorem State.setPc_d (s : State) (n : Nat) : (s.setPc n).d = s.d := rfl
@[simp] theorem State.setPc_off (s : State) (n : Nat) : (s.setPc n).off = s.off := rfl
@[simp] theorem State.setPc_len (s : State) (n : Nat) : (s.setPc n).len = s.len := rfl
@[simp] theorem State.setPc_a1 (s : State) (n : Nat) : (s.setPc n).a1 = s.a1 := rfl
@[simp] theorem State.setPc_a2 (s : State) (n : Nat) : (s.setPc n).a2 = s.a2 := rfl
@[simp] theorem State.setPc_cnt (s : State) (n : Nat) : (s.setPc n).cnt = s.cnt := rfl
@[simp] theorem State.setPc_ck (s : State) (n : Nat) : (s.setPc n).ck = s.ck := rfl
@[simp] theorem State.setPc_st (s : State) (n : Nat) : (s.setPc n).st = s.st := rfl
@[simp] theorem State.setPc_cfg (s : State) (n : Nat) : (s.setPc n).cfg = s.cfg := rfl
@[simp] theorem State.setPc_buf (s : State) (n : Nat) : (s.setPc n).buf = s.buf := rfl
@[simp] theorem State.setPc_bufSize (s : State) (n : Nat) : (s.setPc n).bufSize = s.bufSize := rfl
@[simp] theorem State.setPc_pending (s : State) (n : Nat) : (s.setPc n).pending = s.pending := rfl
@[simp] theorem State.setPc_pc (s : State) (n : Nat) : (s.setPc n).pc = n := rfl

/-! ### setByte -/

@[simp] theorem State.setByte_d (s : State) (a : Nat) (b : Byte) : (s.setByte a b).d = s.d := rfl
@[simp] theorem State.setByte_off (s : State) (a : Nat) (b : Byte) : (s.setByte a b).off = s.off := rfl
@[simp] theorem State.setByte_len (s : State) (a : Nat) (b : Byte) : (s.setByte a b).len = s.len := rfl
@[simp] theorem State.setByte_a1 (s : State) (a : Nat) (b : Byte) : (s.setByte a b).a1 = s.a1 := rfl
@[simp] theorem State.setByte_a2 (s : State) (a : Nat) (b : Byte) : (s.setByte a b).a2 = s.a2 := rfl
@[simp] theorem State.setByte_cnt (s : State) (a : Nat) (b : Byte) : (s.setByte a b).cnt = s.cnt := rfl
@[simp] theorem State.setByte_ck (s : State) (a : Nat) (b : Byte) : (s.setByte a b).ck = s.ck := rfl
@[simp] theorem State.setByte_st (s : State) (a : Nat) (b : Byte) : (s.setByte a b).st = s.st := rfl
@[simp] theorem State.setByte_cfg (s : State) (a : Nat) (b : Byte) : (s.setByte a b).cfg = s.cfg := rfl
@[simp] theorem State.setByte_buf (s : State) (a : Nat) (b : Byte) : (s.setByte a b).buf = s.buf.set a b := rfl
@[simp] theorem State.setByte_bufSize (s : State) (a : Nat) (b : Byte) : (s.setByte a b).bufSize = s.bufSize := rfl
@[simp] theorem State.setByte_pending (s : State) (a : Nat) (b : Byte) : (s.setByte a b).pending = s.pending := rfl
@[simp] theorem State.setByte_pc (s : State) (a : Nat) (b : Byte) : (s.setByte a b).pc = s.pc := rfl

/-! ### reseed -/

@[simp] theorem State.reseed_d (s : State) : (s.reseed).d = s.d := rfl
@[simp] theorem State.reseed_off (s : State) : (s.reseed).off = s.off := rfl
@[simp] theorem State.reseed_len (s : State) : (s.reseed).len = s.len := rfl
@[simp] theorem State.reseed_a1 (s : State) : (s.reseed).a1 = Config.seed := rfl
@[simp] theorem State.reseed_a2 (s : State) : (s.reseed).a2 = Config.seed := rfl
@[simp] theorem State.reseed_cnt (s : State) : (s.reseed).cnt = 0#5 := rfl
@[simp] theorem State.reseed_ck (s : State) : (s.reseed).ck = s.ck := rfl
@[simp] theorem State.reseed_st (s : State) : (s.reseed).st = s.st := rfl
@[simp] theorem State.reseed_cfg (s : State) : (s.reseed).cfg = s.cfg := rfl
@[simp] theorem State.reseed_buf (s : State) : (s.reseed).buf = s.buf := rfl
@[simp] theorem State.reseed_bufSize (s : State) : (s.reseed).bufSize = s.bufSize := rfl
@[simp] theorem State.reseed_pending (s : State) : (s.reseed).pending = s.pending := rfl
@[simp] theorem State.reseed_pc (s : State) : (s.reseed).pc = s.pc := rfl

/-! ### setErr -/

@[simp] theorem State.setErr_d (s : State) (e : BitVec 4) : (s.setErr e).d = s.d := rfl
@[simp] theorem State.setErr_off (s : State) (e : BitVec 4) : (s.setErr e).off = s.off := rfl
@[simp] theorem State.setErr_len (s : State) (e : BitVec 4) : (s.setErr e).len = s.len := rfl
@[simp] theorem State.setErr_a1 (s : State) (e : BitVec 4) : (s.setErr e).a1 = s.a1 := rfl
@[simp] theorem State.setErr_a2 (s : State) (e : BitVec 4) : (s.setErr e).a2 = s.a2 := rfl
@[simp] theorem State.setErr_cnt (s : State) (e : BitVec 4) : (s.setErr e).cnt = s.cnt := rfl
@[simp] theorem State.setErr_ck (s : State) (e : BitVec 4) : (s.setErr e).ck = s.ck := rfl
@[simp] theorem State.setErr_st (s : State) (e : BitVec 4) : (s.setErr e).st = stWithErr s.st e := rfl
@[simp] theorem State.setErr_cfg (s : State) (e : BitVec 4) : (s.setErr e).cfg = s.cfg := rfl
@[simp] theorem State.setErr_buf (s : State) (e : BitVec 4) : (s.setErr e).buf = s.buf := rfl
@[simp] theorem State.setErr_bufSize (s : State) (e : BitVec 4) : (s.setErr e).bufSize = s.bufSize := rfl
@[simp] theorem State.setErr_pending (s : State) (e : BitVec 4) : (s.setErr e).pending = s.pending := rfl
@[simp] theorem State.setErr_pc (s : State) (e : BitVec 4) : (s.setErr e).pc = s.pc := rfl

/-! ### raiseFatal -/

@[simp] theorem State.raiseFatal_d (s : State) (c : FatalCause) : (s.raiseFatal c).d = s.d := rfl
@[simp] theorem State.raiseFatal_off (s : State) (c : FatalCause) : (s.raiseFatal c).off = s.off := rfl
@[simp] theorem State.raiseFatal_len (s : State) (c : FatalCause) : (s.raiseFatal c).len = s.len := rfl
@[simp] theorem State.raiseFatal_a1 (s : State) (c : FatalCause) : (s.raiseFatal c).a1 = s.a1 := rfl
@[simp] theorem State.raiseFatal_a2 (s : State) (c : FatalCause) : (s.raiseFatal c).a2 = s.a2 := rfl
@[simp] theorem State.raiseFatal_cnt (s : State) (c : FatalCause) : (s.raiseFatal c).cnt = s.cnt := rfl
@[simp] theorem State.raiseFatal_ck (s : State) (c : FatalCause) : (s.raiseFatal c).ck = s.ck := rfl
@[simp] theorem State.raiseFatal_st (s : State) (c : FatalCause) : (s.raiseFatal c).st = stWithFatal s.st c.code := rfl
@[simp] theorem State.raiseFatal_cfg (s : State) (c : FatalCause) : (s.raiseFatal c).cfg = s.cfg := rfl
@[simp] theorem State.raiseFatal_buf (s : State) (c : FatalCause) : (s.raiseFatal c).buf = s.buf := rfl
@[simp] theorem State.raiseFatal_bufSize (s : State) (c : FatalCause) : (s.raiseFatal c).bufSize = s.bufSize := rfl
@[simp] theorem State.raiseFatal_pending (s : State) (c : FatalCause) : (s.raiseFatal c).pending = s.pending := rfl
@[simp] theorem State.raiseFatal_pc (s : State) (c : FatalCause) : (s.raiseFatal c).pc = s.pc := rfl

/-! ### afterReset -/

@[simp] theorem State.afterReset_d (s : State) : (s.afterReset).d = 0 := rfl
@[simp] theorem State.afterReset_off (s : State) : (s.afterReset).off = 0 := rfl
@[simp] theorem State.afterReset_len (s : State) : (s.afterReset).len = 0 := rfl
@[simp] theorem State.afterReset_a1 (s : State) : (s.afterReset).a1 = Config.seed := rfl
@[simp] theorem State.afterReset_a2 (s : State) : (s.afterReset).a2 = Config.seed := rfl
@[simp] theorem State.afterReset_cnt (s : State) : (s.afterReset).cnt = 0 := rfl
@[simp] theorem State.afterReset_ck (s : State) : (s.afterReset).ck = 0xFFFF#16 := rfl
@[simp] theorem State.afterReset_st (s : State) : (s.afterReset).st = 0x00#8 := rfl
@[simp] theorem State.afterReset_cfg (s : State) : (s.afterReset).cfg = s.readCfg := rfl
@[simp] theorem State.afterReset_buf (s : State) : (s.afterReset).buf = s.buf := rfl
@[simp] theorem State.afterReset_bufSize (s : State) : (s.afterReset).bufSize = s.bufSize := rfl
@[simp] theorem State.afterReset_pending (s : State) : (s.afterReset).pending = s.pending := rfl
@[simp] theorem State.afterReset_pc (s : State) : (s.afterReset).pc = s.pc := rfl

/-! ### present -/

@[simp] theorem State.present_d (s : State) (c : CmdWord) : (s.present c).d = s.d := rfl
@[simp] theorem State.present_off (s : State) (c : CmdWord) : (s.present c).off = s.off := rfl
@[simp] theorem State.present_len (s : State) (c : CmdWord) : (s.present c).len = s.len := rfl
@[simp] theorem State.present_a1 (s : State) (c : CmdWord) : (s.present c).a1 = s.a1 := rfl
@[simp] theorem State.present_a2 (s : State) (c : CmdWord) : (s.present c).a2 = s.a2 := rfl
@[simp] theorem State.present_cnt (s : State) (c : CmdWord) : (s.present c).cnt = s.cnt := rfl
@[simp] theorem State.present_ck (s : State) (c : CmdWord) : (s.present c).ck = s.ck := rfl
@[simp] theorem State.present_st (s : State) (c : CmdWord) : (s.present c).st = s.st := rfl
@[simp] theorem State.present_cfg (s : State) (c : CmdWord) : (s.present c).cfg = s.cfg := rfl
@[simp] theorem State.present_buf (s : State) (c : CmdWord) : (s.present c).buf = s.buf := rfl
@[simp] theorem State.present_bufSize (s : State) (c : CmdWord) : (s.present c).bufSize = s.bufSize := rfl
@[simp] theorem State.present_pending (s : State) (c : CmdWord) : (s.present c).pending = .command c :: s.pending := rfl
@[simp] theorem State.present_pc (s : State) (c : CmdWord) : (s.present c).pc = s.pc := rfl

/-! ### The register a state reads its fields from -/

/-- Two states with the same fields are the same state. -/
theorem State.ext_fields (s t : State) (h1 : s.d = t.d) (h2 : s.off = t.off) (h3 : s.len = t.len) (h4 : s.a1 = t.a1)
    (h5 : s.a2 = t.a2) (h6 : s.cnt = t.cnt) (h7 : s.ck = t.ck) (h8 : s.st = t.st) (h9 : s.cfg = t.cfg)
    (h10 : s.buf = t.buf) (h11 : s.bufSize = t.bufSize) (h12 : s.pending = t.pending) (h13 : s.pc = t.pc) : s = t := by
  cases s
  cases t
  simp_all

/-- `HOST_BE` is a bit of `CFG` alone. -/
theorem State.hostBE_congr {s t : State} (h : s.cfg = t.cfg) : s.hostBE = t.hostBE := by
  simp [State.hostBE, h]

/-- The bytes of the buffer depend on what is written of it alone. -/
theorem State.bufByte_congr {s t : State} (h : s.buf = t.buf) (a : Nat) : s.bufByte a = t.bufByte a := by
  simp [State.bufByte, h]

/-- A range read depends on what is written of the buffer alone. -/
theorem State.memRead_congr {s t : State} (h : s.buf = t.buf) (a n : Nat) : s.memRead a n = t.memRead a n := by
  induction n generalizing a with
  | zero => rfl
  | succ n ih => simp [State.memRead, State.bufByte_congr h, ih]

end Sys2Proof.Machine
end

