-- ==== Sys2Proof/Laws/Memory.lean ====
section
/-! SUPPORT. The laws of the buffer: read after write, writes elsewhere, the canonical form kept by every operation, and
equal memories are equal lists. -/

namespace Sys2Proof.Machine

/-! ### One cell -/

theorem Memory.get?_set (m : Memory) (a b : Nat) (v : Byte) :
    (m.set a v).get? b = if a = b then some v else m.get? b := by
  induction m with
  | nil => simp [Memory.set, Memory.get?]
  | cons c m ih =>
    obtain ⟨x, w⟩ := c
    by_cases h1 : a < x
    · simp [Memory.set, Memory.get?, h1]
    · by_cases h2 : a = x
      · subst h2
        by_cases h3 : a = b <;> simp [Memory.set, Memory.get?, h3]
      · by_cases h3 : x = b
        · subst h3
          simp [Memory.set, Memory.get?, h1, h2]
        · simp [Memory.set, Memory.get?, h1, h2, h3, ih]

/-- The head of a memory with a cell written is the cell or the old head. -/
theorem Memory.wf_cons (a : Nat) (v : Byte) (m : Memory) :
    Memory.wf ((a, v) :: m) = true ↔ (∀ c ∈ m, a < c.1) ∧ m.wf = true := by
  induction m generalizing a v with
  | nil => simp [Memory.wf]
  | cons c m ih =>
    obtain ⟨b, w⟩ := c
    have hb := ih b w
    constructor
    · intro h
      simp only [Memory.wf, Bool.and_eq_true, decide_eq_true_eq] at h
      refine ⟨fun c hc => ?_, h.2⟩
      rcases List.mem_cons.1 hc with rfl | hc
      · exact h.1
      · exact lt_trans h.1 ((hb.1 h.2).1 c hc)
    · intro h
      simp only [Memory.wf, Bool.and_eq_true, decide_eq_true_eq]
      exact ⟨h.1 (b, w) (by simp), h.2⟩

/-- The addresses of a memory with a cell written are the old ones and the cell's. -/
theorem Memory.mem_set {m : Memory} {a : Nat} {v : Byte} {c : Host.Cell} (h : c ∈ m.set a v) :
    c = (a, v) ∨ c ∈ m := by
  induction m with
  | nil => simpa [Memory.set] using h
  | cons x m ih =>
    obtain ⟨b, w⟩ := x
    simp only [Memory.set] at h
    split_ifs at h
    · simpa using h
    · rcases List.mem_cons.1 h with h | h
      · exact .inl h
      · exact .inr (List.mem_cons_of_mem _ h)
    · rcases List.mem_cons.1 h with h | h
      · exact .inr (by simp [h])
      · exact (ih h).imp_right (List.mem_cons_of_mem _)

/-- Writing a byte keeps the canonical form. -/
theorem Memory.set_wf (m : Memory) (a : Nat) (v : Byte) (h : m.wf = true) : (m.set a v).wf = true := by
  induction m with
  | nil => simp [Memory.set, Memory.wf]
  | cons c m ih =>
    obtain ⟨b, w⟩ := c
    have hc := (Memory.wf_cons b w m).1 h
    simp only [Memory.set]
    split_ifs with h1 h2
    · refine (Memory.wf_cons _ _ _).2 ⟨fun c hm => ?_, h⟩
      rcases List.mem_cons.1 hm with rfl | hm
      · exact h1
      · exact lt_trans h1 (hc.1 c hm)
    · exact (Memory.wf_cons _ _ _).2 ⟨by subst h2; exact hc.1, hc.2⟩
    · refine (Memory.wf_cons _ _ _).2 ⟨fun c hm => ?_, ih hc.2⟩
      rcases Memory.mem_set hm with rfl | hm
      · simp only; omega
      · exact hc.1 c hm

/-- An address below every cell holds no value. -/
theorem Memory.get?_of_lt (m : Memory) (a : Nat) (h : ∀ c ∈ m, a < c.1) : m.get? a = none := by
  induction m with
  | nil => rfl
  | cons c m ih =>
    obtain ⟨b, w⟩ := c
    have := h (b, w) (by simp)
    simp only at this
    simp [Memory.get?, show b ≠ a by omega, ih fun c hc => h c (List.mem_cons_of_mem _ hc)]

/-- Equal memories are equal data: two canonical memories that hold the same value at every address are one list. -/
theorem Memory.ext_of_wf (m n : Memory) (hm : m.wf = true) (hn : n.wf = true) (h : ∀ a, m.get? a = n.get? a) :
    m = n := by
  induction m generalizing n with
  | nil =>
    cases n with
    | nil => rfl
    | cons c n => simpa [Memory.get?] using h c.1
  | cons c m ih =>
    obtain ⟨a, v⟩ := c
    have hc := (Memory.wf_cons a v m).1 hm
    cases n with
    | nil => simpa [Memory.get?] using h a
    | cons d n =>
      obtain ⟨b, w⟩ := d
      have hd := (Memory.wf_cons b w n).1 hn
      have hab : a = b := by
        rcases lt_trichotomy a b with hlt | heq | hgt
        · have h1 := h a
          rw [Memory.get?_of_lt ((b, w) :: n) a (fun c hc' => by
            rcases List.mem_cons.1 hc' with rfl | hc'
            · exact hlt
            · exact lt_trans hlt (hd.1 c hc'))] at h1
          simp [Memory.get?] at h1
        · exact heq
        · have h1 := h b
          rw [Memory.get?_of_lt ((a, v) :: m) b (fun c hc' => by
            rcases List.mem_cons.1 hc' with rfl | hc'
            · exact hgt
            · exact lt_trans hgt (hc.1 c hc'))] at h1
          simp [Memory.get?] at h1
      subst hab
      have hv : v = w := by simpa [Memory.get?] using h a
      subst hv
      congr 1
      refine ih n hc.2 hd.2 fun x => ?_
      by_cases hx : a = x
      · subst hx
        rw [Memory.get?_of_lt m a hc.1, Memory.get?_of_lt n a hd.1]
      · simpa [Memory.get?, hx] using h x

/-! ### Bytes of a state -/

/-- Read after write, and every other byte as before. -/
theorem State.bufByte_setByte (s : State) (a b : Nat) (v : Byte) :
    (s.setByte a v).bufByte b = if a = b then v else s.bufByte b := by
  simp only [State.bufByte, State.setByte_buf, Memory.get?_set]
  split_ifs <;> rfl

/-- A range write is a change of the buffer and of nothing else. -/
theorem State.memWrite_eq_setBuf (s : State) (a : Nat) (bs : List Byte) :
    s.memWrite a bs = s.setBuf (s.memWrite a bs).buf := by
  induction bs generalizing s a with
  | nil => rfl
  | cons b bs ih =>
    simp only [State.memWrite]
    rw [ih]
    rfl

@[simp] theorem State.memWrite_d (s : State) (a : Nat) (bs : List Byte) : (s.memWrite a bs).d = s.d := by
  rw [State.memWrite_eq_setBuf, State.setBuf_d]
@[simp] theorem State.memWrite_off (s : State) (a : Nat) (bs : List Byte) : (s.memWrite a bs).off = s.off := by
  rw [State.memWrite_eq_setBuf, State.setBuf_off]
@[simp] theorem State.memWrite_len (s : State) (a : Nat) (bs : List Byte) : (s.memWrite a bs).len = s.len := by
  rw [State.memWrite_eq_setBuf, State.setBuf_len]
@[simp] theorem State.memWrite_a1 (s : State) (a : Nat) (bs : List Byte) : (s.memWrite a bs).a1 = s.a1 := by
  rw [State.memWrite_eq_setBuf, State.setBuf_a1]
@[simp] theorem State.memWrite_a2 (s : State) (a : Nat) (bs : List Byte) : (s.memWrite a bs).a2 = s.a2 := by
  rw [State.memWrite_eq_setBuf, State.setBuf_a2]
@[simp] theorem State.memWrite_cnt (s : State) (a : Nat) (bs : List Byte) : (s.memWrite a bs).cnt = s.cnt := by
  rw [State.memWrite_eq_setBuf, State.setBuf_cnt]
@[simp] theorem State.memWrite_ck (s : State) (a : Nat) (bs : List Byte) : (s.memWrite a bs).ck = s.ck := by
  rw [State.memWrite_eq_setBuf, State.setBuf_ck]
@[simp] theorem State.memWrite_st (s : State) (a : Nat) (bs : List Byte) : (s.memWrite a bs).st = s.st := by
  rw [State.memWrite_eq_setBuf, State.setBuf_st]
@[simp] theorem State.memWrite_cfg (s : State) (a : Nat) (bs : List Byte) : (s.memWrite a bs).cfg = s.cfg := by
  rw [State.memWrite_eq_setBuf, State.setBuf_cfg]
@[simp] theorem State.memWrite_bufSize (s : State) (a : Nat) (bs : List Byte) :
    (s.memWrite a bs).bufSize = s.bufSize := by
  rw [State.memWrite_eq_setBuf, State.setBuf_bufSize]
@[simp] theorem State.memWrite_pending (s : State) (a : Nat) (bs : List Byte) :
    (s.memWrite a bs).pending = s.pending := by
  rw [State.memWrite_eq_setBuf, State.setBuf_pending]
@[simp] theorem State.memWrite_pc (s : State) (a : Nat) (bs : List Byte) : (s.memWrite a bs).pc = s.pc := by
  rw [State.memWrite_eq_setBuf, State.setBuf_pc]

/-- What a range write leaves at each address: the byte of the list whose place it is, or what was there. -/
theorem State.bufByte_memWrite (s : State) (a : Nat) (bs : List Byte) (x : Nat) :
    (s.memWrite a bs).bufByte x = if a ≤ x then (bs[x - a]?).getD (s.bufByte x) else s.bufByte x := by
  induction bs generalizing s a with
  | nil => simp [State.memWrite]
  | cons b bs ih =>
    simp only [State.memWrite]
    rw [ih, State.bufByte_setByte]
    by_cases h1 : a + 1 ≤ x
    · rw [if_pos h1, if_pos (show a ≤ x by omega), if_neg (show a ≠ x by omega),
        show x - a = (x - (a + 1)) + 1 by omega, List.getElem?_cons_succ]
    · rw [if_neg h1]
      by_cases h2 : a = x
      · subst h2; simp
      · rw [if_neg h2, if_neg (show ¬ a ≤ x by omega)]

/-- A range write keeps the canonical form. -/
theorem State.memWrite_wf (s : State) (a : Nat) (bs : List Byte) (h : s.buf.wf = true) :
    (s.memWrite a bs).buf.wf = true := by
  induction bs generalizing s a with
  | nil => exact h
  | cons b bs ih => exact ih _ _ (Memory.set_wf _ _ _ h)

/-- A range write inside the buffer leaves every cell inside the buffer. -/
theorem State.memWrite_inside (s : State) (a : Nat) (bs : List Byte) (h : ∀ c ∈ s.buf, c.1 < s.bufSize)
    (hb : a + bs.length ≤ s.bufSize) : ∀ c ∈ (s.memWrite a bs).buf, c.1 < s.bufSize := by
  induction bs generalizing s a with
  | nil => exact h
  | cons b bs ih =>
    simp only [List.length_cons] at hb
    refine ih (s.setByte a b) (a + 1) (fun c hc => ?_) (by simp only [State.setByte_bufSize]; omega)
    rw [State.setByte_bufSize]
    rcases Memory.mem_set hc with rfl | hc
    · simp only; omega
    · exact h c hc

@[simp] theorem State.memRead_length (s : State) (a n : Nat) : (s.memRead a n).length = n := by
  induction n generalizing a with
  | zero => rfl
  | succ n ih => simp [State.memRead, ih]

/-- The `i`-th byte of a range read is `BUF[a+i]`. -/
theorem State.memRead_getElem? (s : State) (a n i : Nat) (h : i < n) :
    (s.memRead a n)[i]? = some (s.bufByte (a + i)) := by
  induction n generalizing a i with
  | zero => omega
  | succ n ih =>
    cases i with
    | zero => simp [State.memRead]
    | succ i =>
      simp only [State.memRead, List.getElem?_cons_succ]
      rw [ih (a + 1) i (by omega), show a + 1 + i = a + (i + 1) by omega]

/-- A range read of bytes that agree is the same list. -/
theorem State.memRead_eq_of_bytes (s t : State) (a n : Nat) (h : ∀ i < n, s.bufByte (a + i) = t.bufByte (a + i)) :
    s.memRead a n = t.memRead a n := by
  induction n generalizing a with
  | zero => rfl
  | succ n ih =>
    simp only [State.memRead]
    rw [ih (a + 1) fun i hi => by
      have := h (i + 1) (by omega)
      rwa [show a + (i + 1) = a + 1 + i by omega] at this]
    have := h 0 (by omega)
    simp only [Nat.add_zero] at this
    rw [this]

/-- Reading a range back after writing it. -/
theorem State.memRead_memWrite (s : State) (a : Nat) (bs : List Byte) :
    (s.memWrite a bs).memRead a bs.length = bs := by
  refine List.ext_getElem? fun i => ?_
  by_cases h : i < bs.length
  · rw [State.memRead_getElem? _ _ _ _ h, State.bufByte_memWrite, if_pos (by omega),
      show a + i - a = i by omega, List.getElem?_eq_getElem h]
    rfl
  · rw [List.getElem?_eq_none (by simp; omega), List.getElem?_eq_none (by omega)]

end Sys2Proof.Machine
end

