-- ==== Sys2Proof/Laws/Ops.lean ====
section
/-! SUPPORT. What each shared operation can do, said once: how a command ends, the width and bounds tests, the status
fields, what one step does with the host's next action. -/

namespace Sys2Proof.Machine

/-! ### Status fields -/

@[simp] theorem stErr_stWithErr (st : BitVec 8) (e : BitVec 4) : stErr (stWithErr st e) = e := by
  ext i hi
  simp only [stErr, stWithErr, BitVec.getElem_extractLsb', BitVec.getLsbD_append]
  simp [hi]

@[simp] theorem stFatal_stWithErr (st : BitVec 8) (e : BitVec 4) : stFatal (stWithErr st e) = stFatal st := by
  simp only [stFatal, stWithErr, BitVec.getLsbD_append, BitVec.getLsbD_extractLsb']
  simp

@[simp] theorem stCause_stWithErr (st : BitVec 8) (e : BitVec 4) : stCause (stWithErr st e) = stCause st := by
  ext i hi
  simp only [stCause, stWithErr, BitVec.getElem_extractLsb', BitVec.getLsbD_append]
  simp [show ¬ 4 + i < 4 by omega, show 4 + i - 4 = i by omega]
  omega

@[simp] theorem stErr_stWithFatal (st : BitVec 8) (c : BitVec 3) : stErr (stWithFatal st c) = stErr st := by
  ext i hi
  simp only [stErr, stWithFatal, BitVec.getElem_extractLsb', BitVec.getLsbD_append, BitVec.getLsbD_extractLsb']
  simp [hi]

@[simp] theorem stFatal_stWithFatal (st : BitVec 8) (c : BitVec 3) : stFatal (stWithFatal st c) = true := by
  simp only [stFatal, stWithFatal, BitVec.getLsbD_append]
  simp

@[simp] theorem stCause_stWithFatal (st : BitVec 8) (c : BitVec 3) : stCause (stWithFatal st c) = c := by
  ext i hi
  simp only [stCause, stWithFatal, BitVec.getElem_extractLsb', BitVec.getLsbD_append]
  simp [show ¬ 4 + i < 4 by omega, hi, show 4 + i - 4 = i by omega]

/-- The status fields written as masks of the whole register. -/
theorem stWithErr_zero (st : BitVec 8) : stWithErr st 0#4 = st &&& 0xF0#8 := by revert st; decide

theorem stWithErr_bufferTooSmall (st : BitVec 8) :
    stWithErr st ErrCode.bufferTooSmall.code = (st &&& 0xF0#8) ||| 1#8 := by revert st; decide

theorem stWithErr_checksumMismatch (st : BitVec 8) :
    stWithErr st ErrCode.checksumMismatch.code = (st &&& 0xF0#8) ||| 2#8 := by revert st; decide

theorem stWithFatal_badWidth (st : BitVec 8) :
    stWithFatal st FatalCause.badWidth.code = (st &&& 0x0F#8) ||| 0x90#8 := by revert st; decide

theorem stWithFatal_illegalCommand (st : BitVec 8) :
    stWithFatal st FatalCause.illegalCommand.code = (st &&& 0x0F#8) ||| 0xA0#8 := by revert st; decide

/-! ### How a command ends -/

/-- In a fatal state a command is discarded (R109 line 1). -/
theorem State.issue_fatal {s : State} (h : s.isFatal = true) (e : Ending) : s.issue e = .next s := by
  simp [State.issue, h]

/-- In any other state it ends as its body says. -/
theorem State.issue_running {s : State} (h : s.isFatal = false) (e : Ending) : s.issue e = .next (s.conclude e) := by
  simp [State.issue, h]

/-- Everything a command can do: discarded, success, error, fatal (R106, R109). -/
theorem State.issue_cases {s t : State} {e : Ending} (h : s.issue e = .next t) :
    (s.isFatal = true ∧ t = s) ∨
    (s.isFatal = false ∧
      ((∃ u, e = .done u ∧ t = u.setErr 0#4) ∨ (∃ c u, e = .err c u ∧ t = u.setErr c.code) ∨
       (∃ c, e = .fatal c ∧ t = s.raiseFatal c))) := by
  unfold State.issue at h
  injection h with h
  by_cases hf : s.isFatal = true
  · rw [if_pos hf] at h
    exact .inl ⟨hf, h.symm⟩
  · rw [if_neg hf] at h
    refine .inr ⟨by simpa using hf, ?_⟩
    cases e with
    | done u => exact .inl ⟨u, rfl, h.symm⟩
    | err c u => exact .inr (.inl ⟨c, u, rfl, h.symm⟩)
    | fatal c => exact .inr (.inr ⟨c, rfl, h.symm⟩)

/-- Every command answers a next state. -/
theorem State.issue_next (s : State) (e : Ending) : ∃ t, s.issue e = .next t := ⟨_, rfl⟩

/-- The endings in a state that is not fatal, `ST` written as masks. -/
theorem State.issue_done {s : State} (h : s.isFatal = false) (t : State) :
    s.issue (.done t) = .next (t.setSt (t.st &&& 0xF0#8)) := by
  rw [State.issue_running h]
  simp [State.conclude, State.setErr, stWithErr_zero]

theorem State.issue_bufferTooSmall {s : State} (h : s.isFatal = false) (t : State) :
    s.issue (.err .bufferTooSmall t) = .next (t.setSt ((t.st &&& 0xF0#8) ||| 1#8)) := by
  rw [State.issue_running h]
  simp [State.conclude, State.setErr, stWithErr_bufferTooSmall]

theorem State.issue_checksumMismatch {s : State} (h : s.isFatal = false) (t : State) :
    s.issue (.err .checksumMismatch t) = .next (t.setSt ((t.st &&& 0xF0#8) ||| 2#8)) := by
  rw [State.issue_running h]
  simp [State.conclude, State.setErr, stWithErr_checksumMismatch]

theorem State.issue_badWidth {s : State} (h : s.isFatal = false) :
    s.issue (.fatal .badWidth) = .next (s.setSt ((s.st &&& 0x0F#8) ||| 0x90#8)) := by
  rw [State.issue_running h]
  simp [State.conclude, State.raiseFatal, stWithFatal_badWidth]

theorem State.issue_illegalCommand {s : State} (h : s.isFatal = false) :
    s.issueIllegal = .next (s.setSt ((s.st &&& 0x0F#8) ||| 0xA0#8)) := by
  rw [State.issueIllegal, State.issue_running h]
  simp [State.conclude, State.raiseFatal, stWithFatal_illegalCommand]

/-! ### The width and bounds tests -/

theorem withWidth_legal {w : BitVec 8} {v : Width} (h : Width.ofField w = some v) (body : Width → Ending) :
    withWidth w body = body v := by
  simp [withWidth, h]

theorem withWidth_illegal {w : BitVec 8} (h : legalWidth w = false) (body : Width → Ending) :
    withWidth w body = .fatal .badWidth := by
  have h' : Width.ofField w = none := by
    rw [← Option.not_isSome_iff_eq_none, Width_ofField_isSome, h]
    simp
  simp [withWidth, h']

/-- Everything the width test can do. -/
theorem withWidth_cases (w : BitVec 8) (body : Width → Ending) :
    (legalWidth w = false ∧ withWidth w body = .fatal .badWidth) ∨
    (∃ v, Width.ofField w = some v ∧ withWidth w body = body v) := by
  cases h : Width.ofField w with
  | none =>
    refine .inl ⟨?_, by simp [withWidth, h]⟩
    rw [← Width_ofField_isSome, h]
    rfl
  | some v => exact .inr ⟨v, rfl, by simp [withWidth, h]⟩

theorem State.inBounds_pos {s : State} {a n : Nat} (h : a + n ≤ s.bufSize) (body : State → Ending) :
    s.inBounds a n body = body s := by
  simp [State.inBounds, h]

theorem State.inBounds_neg {s : State} {a n : Nat} (h : s.bufSize < a + n) (body : State → Ending) :
    s.inBounds a n body = .err .bufferTooSmall s := by
  simp [State.inBounds, show ¬ a + n ≤ s.bufSize by omega]

/-- Everything the bounds test can do. -/
theorem State.inBounds_cases (s : State) (a n : Nat) (body : State → Ending) :
    (a + n ≤ s.bufSize ∧ s.inBounds a n body = body s) ∨
    (s.bufSize < a + n ∧ s.inBounds a n body = .err .bufferTooSmall s) := by
  by_cases h : a + n ≤ s.bufSize
  · exact .inl ⟨h, State.inBounds_pos h body⟩
  · exact .inr ⟨by omega, State.inBounds_neg (by omega) body⟩

/-! ### Native and wire accesses -/

/-- A native write is a range write of `w` bytes. -/
theorem State.nativeWrite_is_memWrite (s : State) (a w v : Nat) :
    ∃ bs : List Byte, bs.length = w ∧ s.nativeWrite a w v = s.memWrite a bs := by
  unfold State.nativeWrite
  split_ifs <;> exact ⟨_, by simp, rfl⟩

/-- A native read fits its width. -/
theorem State.nativeRead_lt (s : State) (a w : Nat) : s.nativeRead a w < 256 ^ w := by
  unfold State.nativeRead beNat
  split_ifs
  · simpa using leNat_lt (s.memRead a w).reverse
  · simpa using leNat_lt (s.memRead a w)

/-! ### One step -/

theorem step_idle {s : State} (h : s.pending = []) : step s = .next s := by
  simp [step, State.takeAction, h]

theorem step_reset {s : State} {q : List HostAction} (h : s.pending = .reset :: q) :
    step s = .next (s.setPending q).afterReset := by
  simp [step, State.takeAction, h]

theorem step_writeByte {s : State} {a : Offset} {b : Byte} {q : List HostAction}
    (h : s.pending = .writeByte a b :: q) : step s = (s.setPending q).hostWrite a b := by
  simp [step, State.takeAction, h]

/-- A command word that is illegal. -/
theorem step_illegal {s : State} {c : CmdWord} {q : List HostAction} {r : Illegal}
    (h : s.pending = .command c :: q) (hd : decode c = .error r) :
    step s = ((s.setPending q).setPc (s.pc + 1)).issueIllegal := by
  simp [step, State.takeAction, h, hd]

end Sys2Proof.Machine
end

