-- ==== Sys2Proof/Laws/Checksum.lean ====
section
/-! SUPPORT. The checksum arithmetic as numbers, and what the step functions leave alone. -/

namespace Sys2Proof.Machine

/-- `fold16` as a number: low byte plus high byte. -/
theorem fold16_toNat (v : BitVec 16) : (fold16 v).toNat = v.toNat % 256 + v.toNat / 256 := by
  have hv := v.isLt
  have h1 : (v &&& 0x00FF#16).toNat = v.toNat % 256 := by
    rw [BitVec.toNat_and]
    exact Nat.and_two_pow_sub_one_eq_mod v.toNat 8
  have h2 : (v >>> 8).toNat = v.toNat / 256 := by
    rw [BitVec.toNat_ushiftRight, Nat.shiftRight_eq_div_pow]
  unfold fold16
  rw [BitVec.toNat_add, h1, h2]
  omega

/-- The first sum after a byte. -/
theorem Sums_addByte_a1 (x : Sums) (b : Byte) : (x.addByte b).a1.toNat = (x.a1.toNat + b.toNat) % 65536 := by
  have := b.isLt
  simp [Sums.addByte, BitVec.toNat_add, BitVec.toNat_setWidth]

/-- The second sum after a byte takes the new first one. -/
theorem Sums_addByte_a2 (x : Sums) (b : Byte) :
    (x.addByte b).a2.toNat = (x.a2.toNat + (x.addByte b).a1.toNat) % 65536 := by
  simp [Sums.addByte, BitVec.toNat_add]

/-- `absorb` changes the accumulators and `CNT`, and nothing else. -/
theorem State.absorb_eq_setAcc (s : State) (b : Byte) :
    s.absorb b = s.setAcc (s.absorb b).a1 (s.absorb b).a2 (s.absorb b).cnt := by
  unfold State.absorb
  dsimp only
  split_ifs <;> rfl

/-- So does absorbing a range. -/
theorem State.absorbAll_eq_setAcc (s : State) (bs : List Byte) :
    s.absorbAll bs = s.setAcc (s.absorbAll bs).a1 (s.absorbAll bs).a2 (s.absorbAll bs).cnt := by
  induction bs generalizing s with
  | nil => rfl
  | cons b bs ih =>
    have h : ∀ x y c, (s.absorb b).setAcc x y c = s.setAcc x y c := fun x y c => by
      rw [State.absorb_eq_setAcc s b]
      rfl
    exact (ih (s.absorb b)).trans (h _ _ _)

/-- `finish` changes the accumulators, `CNT` and `CK`, and reseeds. -/
theorem State.finish_eq (s : State) : s.finish = (s.setCk s.finish.ck).reseed := rfl

/-- A successful CKRANGE or CKVFY changes `CK`, and reseeds. -/
theorem State.checksumRange_eq (s : State) :
    s.checksumRange = (s.setCk (fletcher (s.memRead s.off.toNat s.len.toNat))).reseed := rfl

end Sys2Proof.Machine
end

