-- ==== Sys2Proof/Laws/Frame.lean ====
section
/-! SUPPORT. The field tables: the fields of every table lie apart (spec/41_byteorder.md R93). -/

namespace Sys2Proof.Machine

/-- No field of a layout starts before the layout does. -/
theorem layOut_from (o : Nat) (fs : List (Nat × Width)) : ∀ f ∈ layOut o fs, o ≤ f.1 := by
  induction fs generalizing o with
  | nil => simp [layOut]
  | cons g fs ih =>
    obtain ⟨skip, w⟩ := g
    simp only [layOut, List.forall_mem_cons]
    exact ⟨by omega, fun f hf => by have := ih _ f hf; omega⟩

/-- The fields of a layout lie apart. -/
theorem layOut_apart (o : Nat) (fs : List (Nat × Width)) : (layOut o fs).Pairwise fieldsApart := by
  induction fs generalizing o with
  | nil => exact .nil
  | cons g fs ih => exact .cons (fun f hf => .inl (layOut_from _ fs f hf)) (ih _)

/-- The fields of every table lie apart, of the open ones too. -/
theorem fieldTable_apart (k : StructKind) : (fieldTable k).Pairwise fieldsApart := by
  cases k <;> first | exact layOut_apart _ _ | simp [fieldTable, fieldsApart, Width.bytes]

end Sys2Proof.Machine
end

