-- ==== Sys2Proof/Laws/PerInstr.lean ====
section
/-! SUPPORT. What is said of each command as syntax, one lemma per constructor. -/

namespace Sys2Proof.Laws.EncodingIsLegal

/-- The command's word is legal by the opcode map (R52), and its bits 31:24 are the command's opcode. -/
def Statement (i : Instr) : Prop := legalWord (encode i) = true ∧ opcodeOf (encode i) = i.opcode

/-- The word of a row of the opcode map is legal. -/
theorem legal_of_row {c : CmdWord} {r : OpcodeRow} (hr : r ∈ opcodeRows) (h : r.fits c = true) : legalWord c = true :=
  List.any_eq_true.2 ⟨r, hr, h⟩

/-- Bits 31:24 of an opcode followed by operand bits. -/
theorem opcodeOf_append (o : BitVec 8) (x : BitVec 24) : opcodeOf (o ++ x) = o := BitVec.extractLsb'_append_eq_left

/-- A row whose mask keeps the opcode and sends the operand bits to the row's value fits the word. -/
theorem fits_append (o : BitVec 8) (x q z : BitVec 24) (m : String) (h : x &&& q = z) :
    OpcodeRow.fits ⟨m, o ++ z, BitVec.allOnes 8 ++ q⟩ (o ++ x) = true := by
  rw [OpcodeRow.fits, beq_iff_eq]
  exact BitVec.and_append.trans (by rw [BitVec.and_allOnes, h])

/-- The must-be-zero bits of formats B and W. -/
theorem byte_masked (x : BitVec 8) : (0#16 ++ x) &&& (BitVec.allOnes 16 ++ 0#8) = 0#16 ++ 0#8 :=
  BitVec.and_append.trans (by rw [BitVec.and_zero, BitVec.and_allOnes])

/-- The must-be-zero bits of format K. -/
theorem lane_masked (k : BitVec 2) (x : BitVec 16) :
    (0#6 ++ k ++ x) &&& (BitVec.allOnes 6 ++ 0#2 ++ 0#16) = 0#6 ++ 0#2 ++ 0#16 :=
  BitVec.and_append.trans (by rw [BitVec.and_append, BitVec.and_zero, BitVec.and_zero, BitVec.and_allOnes])

theorem nop : Statement .nop := by unfold Statement; decide

theorem setoff (imm24 : BitVec 24) : Statement (.setoff imm24) :=
  ⟨legal_of_row (r := opcodeRows[1]) (by decide) (fits_append 0x01#8 imm24 0#24 0#24 _ BitVec.and_zero), opcodeOf_append _ _⟩

theorem setlen (imm24 : BitVec 24) : Statement (.setlen imm24) :=
  ⟨legal_of_row (r := opcodeRows[2]) (by decide) (fits_append 0x02#8 imm24 0#24 0#24 _ BitVec.and_zero), opcodeOf_append _ _⟩

theorem setd (k : BitVec 2) (imm16 : BitVec 16) : Statement (.setd k imm16) :=
  ⟨legal_of_row (r := opcodeRows[3]) (by decide) (fits_append 0x03#8 _ _ _ _ (lane_masked k imm16)), opcodeOf_append _ _⟩

theorem ckinit : Statement .ckinit := by unfold Statement; decide

theorem ckb (imm8 : BitVec 8) : Statement (.ckb imm8) :=
  ⟨legal_of_row (r := opcodeRows[5]) (by decide) (fits_append 0x11#8 _ _ _ _ (byte_masked imm8)), opcodeOf_append _ _⟩

theorem ckabs : Statement .ckabs := by unfold Statement; decide

theorem ckfin : Statement .ckfin := by unfold Statement; decide

theorem ckrange : Statement .ckrange := by unfold Statement; decide

theorem ckput : Statement .ckput := by unfold Statement; decide

theorem ckvfy : Statement .ckvfy := by unfold Statement; decide

theorem bswap (w : BitVec 8) : Statement (.bswap w) :=
  ⟨legal_of_row (r := opcodeRows[11]) (by decide) (fits_append 0x20#8 _ _ _ _ (byte_masked w)), opcodeOf_append _ _⟩

theorem norm (w : BitVec 8) : Statement (.norm w) :=
  ⟨legal_of_row (r := opcodeRows[12]) (by decide) (fits_append 0x21#8 _ _ _ _ (byte_masked w)), opcodeOf_append _ _⟩

theorem normm (w : BitVec 8) : Statement (.normm w) :=
  ⟨legal_of_row (r := opcodeRows[13]) (by decide) (fits_append 0x22#8 _ _ _ _ (byte_masked w)), opcodeOf_append _ _⟩

theorem ldn (w : BitVec 8) : Statement (.ldn w) :=
  ⟨legal_of_row (r := opcodeRows[14]) (by decide) (fits_append 0x23#8 _ _ _ _ (byte_masked w)), opcodeOf_append _ _⟩

theorem stn (w : BitVec 8) : Statement (.stn w) :=
  ⟨legal_of_row (r := opcodeRows[15]) (by decide) (fits_append 0x24#8 _ _ _ _ (byte_masked w)), opcodeOf_append _ _⟩

theorem ldf (w : BitVec 8) : Statement (.ldf w) :=
  ⟨legal_of_row (r := opcodeRows[16]) (by decide) (fits_append 0x25#8 _ _ _ _ (byte_masked w)), opcodeOf_append _ _⟩

theorem stf (w : BitVec 8) : Statement (.stf w) :=
  ⟨legal_of_row (r := opcodeRows[17]) (by decide) (fits_append 0x26#8 _ _ _ _ (byte_masked w)), opcodeOf_append _ _⟩

end Sys2Proof.Laws.EncodingIsLegal
end

