-- ==== Sys2Proof/Tests/Slice0.lean ====
section
/-! SUPPORT. The model's own tests. Expected values come from spec/95_test_vectors.md (the vector's id is in the test's
comment) or from the encodings of spec/30_encoding.md written out bit by bit; after them one witness for each statement
that has hypotheses. -/

namespace Sys2Proof.Tests

open Sys2Proof.Machine Sys2Proof.Claims

/-! ### Small states -/

/-- The reset values of R29, on a host of the given byte order, with these bytes in the buffer and no others. -/
def small (hostBE : Bool) (bs : List Byte) : State where
  d := 0
  off := 0
  len := 0
  a1 := 0x00FF#16
  a2 := 0x00FF#16
  cnt := 0
  ck := 0xFFFF#16
  st := 0x00#8
  cfg := 0#7 ++ BitVec.ofBool hostBE
  buf := bs.zipIdx.map fun p => (p.2, p.1)
  bufSize := bs.length
  pending := []
  pc := 0

/-- The bytes of the buffer from 0 on. -/
def bytesOf (s : State) : List Byte := (List.range s.bufSize).map s.bufByte

/-- What one step leaves, when it answers a next state. -/
def got {α : Type} (o : Host.Outcome State Fault Refusal) (f : State → α) : Option α :=
  match o with
  | .next t => some (f t)
  | .fault _ => none
  | .refused _ => none

/-- What the command word `c` leaves, presented to `s`. -/
def after {α : Type} (s : State) (c : CmdWord) (f : State → α) : Option α := got (step (s.present c)) f

/-- What the commands leave in order. -/
def afterAll {α : Type} (s : State) (is : List Instr) (f : State → α) : Option α := (runAll is s).map f

/-- 27 bytes: 0 to 24 and their trailer (V-F22, P2). -/
def sealedRange (hostBE : Bool) : State :=
  { small hostBE ((List.range 25).map (BitVec.ofNat 8) ++ [0x2D#8, 0x32#8]) with len := 25#24 }

/-- `BUF[4..7] = 78 56 34 12`, `OFF = 4` (V-B7). -/
def fieldAt4 (hostBE : Bool) : State :=
  { small hostBE [0x01#8, 0x00#8, 0x20#8, 0x00#8, 0x78#8, 0x56#8, 0x34#8, 0x12#8] with off := 4#24 }

/-- A state in which a command was fatal (R112). -/
def fatalState : State := { sealedRange true with st := 0x91#8 }

/-! ### Well-formedness: one ill-formed term for each check, refused -/

/-- R52, R55: `OPC` not assigned. -/
theorem test_wf_opcode : legalWord 0x04000000#32 = false ∧ legalWord 0x27000000#32 = false := by decide

/-- R47, R49, R50, R51: a must-be-zero bit set, in formats N, K, B and W. -/
theorem test_wf_reserved :
    legalWord 0x14000001#32 = false ∧ legalWord 0x03040000#32 = false ∧ legalWord 0x11000100#32 = false ∧
    legalWord 0x25000102#32 = false := by decide

/-- R54: 0, 3 and 16 are no legal widths. -/
theorem test_wf_width :
    legalWidth 0#8 = false ∧ (Instr.norm 3#8).widthLegal = false ∧ (Instr.ldf 16#8).widthLegal = false ∧
    (Instr.stf 8#8).widthLegal = true := by decide

/-- R57: operands out of the assembler's ranges. -/
theorem test_wf_operands :
    asmSetoff 0x1000000 = none ∧ asmSetlen 0x1000000 = none ∧ asmSetd 4 0 = none ∧ asmSetd 0 0x10000 = none ∧
    asmCkb 256 = none ∧ asmWidth .bswap 256 = none ∧ asmWidth .bswap 255 = some (.bswap 255#8) := by decide

/-! ### Encodings -/

/-- R52, formats R47 to R51: the system commands, written out as `OPC ++ operand fields`. -/
theorem test_decode_system :
    decode (0b00000000#8 ++ 0#24) = .ok .nop ∧
    decode (0b00000001#8 ++ 0b000000000000000000011000#24) = .ok (.setoff 0x18#24) ∧
    decode (0b00000010#8 ++ 0b000000000000000000111000#24) = .ok (.setlen 56#24) ∧
    decode (0b00000011#8 ++ 0b000000#6 ++ 0b11#2 ++ 0b0100000001000010#16) = .ok (.setd 3#2 0x4042#16) := by decide

/-- The checksum commands. -/
theorem test_decode_checksum :
    decode (0b00010000#8 ++ 0#24) = .ok .ckinit ∧
    decode (0b00010001#8 ++ 0#16 ++ 0b01100001#8) = .ok (.ckb 0x61#8) ∧
    decode (0b00010010#8 ++ 0#24) = .ok .ckabs ∧ decode (0b00010011#8 ++ 0#24) = .ok .ckfin ∧
    decode (0b00010100#8 ++ 0#24) = .ok .ckrange ∧ decode (0b00010101#8 ++ 0#24) = .ok .ckput ∧
    decode (0b00010110#8 ++ 0#24) = .ok .ckvfy := by decide

/-- The byte-order commands, at legal widths and at fatal ones. -/
theorem test_decode_byteorder :
    decode (0b00100000#8 ++ 0#16 ++ 0b00001000#8) = .ok (.bswap 8#8) ∧
    decode (0b00100001#8 ++ 0#16 ++ 0b00000010#8) = .ok (.norm 2#8) ∧
    decode (0b00100010#8 ++ 0#16 ++ 0b00000100#8) = .ok (.normm 4#8) ∧
    decode (0b00100011#8 ++ 0#16 ++ 0b00000001#8) = .ok (.ldn 1#8) ∧
    decode (0b00100100#8 ++ 0#16 ++ 0b00000101#8) = .ok (.stn 5#8) ∧
    decode (0b00100101#8 ++ 0#16 ++ 0b00010000#8) = .ok (.ldf 16#8) ∧
    decode (0b00100110#8 ++ 0#16 ++ 0b11111111#8) = .ok (.stf 255#8) := by decide

/-- V-E1 to V-E7: illegal words, by name. -/
theorem test_decode_illegal :
    decode 0x00000001#32 = .error .reservedBitSet ∧ decode 0x7F000000#32 = .error .unassignedOpcode ∧
    decode 0x03040000#32 = .error .reservedBitSet ∧ decode 0x25000102#32 = .error .reservedBitSet ∧
    decode 0x14000001#32 = .error .reservedBitSet ∧ decode 0x11000100#32 = .error .reservedBitSet ∧
    decode 0x0F000000#32 = .error .unassignedOpcode ∧ decode 0xFF000000#32 = .error .unassignedOpcode := by decide

/-- The encoder gives the words of the spec's examples (V-Y3, V-Y5, V-Y7, V-C2, V-B12). -/
theorem test_encode :
    encode (.setoff 0x18#24) = 0x01000018#32 ∧ encode (.setlen 56#24) = 0x02000038#32 ∧
    encode (.setd 2#2 0xC000#16) = 0x0302C000#32 ∧ encode (.ckb 0x61#8) = 0x11000061#32 ∧
    encode (.stf 8#8) = 0x26000008#32 ∧ encode .ckvfy = 0x16000000#32 := by decide

/-- The opcode table's numbering: one whole word. -/
theorem test_decode_table_word :
    decodeTableWord 32 0x0303FFFF = some (.setd 3#2 0xFFFF#16) ∧ decodeTableWord 32 0x260000FF = some (.stf 255#8) ∧
    decodeTableWord 32 0x04000000 = none := by decide

/-! ### One step of each command -/

/-- V-Y1, V-Y2: NOP clears `ERR`, and nothing while FATAL. -/
theorem test_nop :
    after { small false [] with st := 0x02#8 } 0x00000000#32 (·.st) = some 0x00#8 ∧
    after { small false [] with st := 0x91#8 } 0x00000000#32 (·.st) = some 0x91#8 := by decide

/-- V-Y3, V-Y4. -/
theorem test_setoff :
    after (small false []) 0x01000018#32 (·.off) = some 0x18#24 ∧
    after (small false []) 0x01FFFFFF#32 (fun t => (t.off, t.st)) = some (0xFFFFFF#24, 0x00#8) := by decide

/-- V-Y5. -/
theorem test_setlen : after (small false []) 0x02000038#32 (·.len) = some 56#24 := by decide

/-- V-Y7, V-Y8: the other lanes are kept. -/
theorem test_setd :
    after { small false [] with d := 0x4042000000000000#64 } 0x0302C000#32 (·.d) = some 0x4042C00000000000#64 ∧
    after { small false [] with d := 0x4042C00000000000#64 } 0x03030000#32 (·.d) = some 0x0000C00000000000#64 := by
  decide

/-- V-C1. -/
theorem test_ckinit :
    after { small false [] with a1 := 0x0160#16, a2 := 0x025F#16, cnt := 1#5 } 0x10000000#32
      (fun t => (t.a1, t.a2, t.cnt)) = some (0x00FF#16, 0x00FF#16, 0#5) := by decide

/-- V-C2. -/
theorem test_ckb :
    after (small false []) 0x11000061#32 (fun t => (t.a1, t.a2, t.cnt)) = some (0x0160#16, 0x025F#16, 1#5) := by decide

/-- V-T2: the 20th byte folds both accumulators. -/
theorem test_ckb_folds :
    after { small false [] with a1 := 0x01AA#16, a2 := 0x1860#16, cnt := 19#5 } 0x11000013#32
      (fun t => (t.a1, t.a2, t.cnt)) = some (0x00BE#16, 0x0037#16, 0#5) := by decide

/-- V-C4. -/
theorem test_ckabs :
    after { small false [0x00#8, 0x01#8, 0x02#8, 0x03#8, 0x04#8, 0x05#8, 0x06#8] with len := 7#24 } 0x12000000#32
      (fun t => (t.a1, t.a2, t.cnt)) = some (0x0114#16, 0x0830#16, 7#5) := by decide

/-- V-T1: CKFIN after "abcde". -/
theorem test_ckfin :
    after { small false [] with a1 := 0x02EE#16, a2 := 0x0BBD#16, cnt := 5#5 } 0x13000000#32
      (fun t => (t.ck, t.a1, t.a2, t.cnt)) = some (0xC8F0#16, 0x00FF#16, 0x00FF#16, 0#5) := by decide

/-- V-F22: the bytes 0 to 24, which are more than one chunk. -/
theorem test_ckrange : after (sealedRange false) 0x14000000#32 (fun t => (t.ck, t.st)) = some (0x322D#16, 0x00#8) := by
  decide

/-- V-C11: `OFF + LEN` does not wrap. -/
theorem test_ckrange_too_small :
    after { small false [0x00#8, 0x00#8, 0x00#8, 0x00#8] with off := 0xFFFFFF#24, len := 0xFFFFFF#24 } 0x14000000#32
      (fun t => (t.ck, t.st)) = some (0xFFFF#16, 0x01#8) := by decide

/-- R72's example, on a big-endian host: the low byte first. -/
theorem test_ckput :
    after { small true [0xEE#8, 0xEE#8, 0xEE#8] with ck := 0x322D#16, len := 1#24 } 0x15000000#32 bytesOf =
      some [0xEE#8, 0x2D#8, 0x32#8] := by decide

/-- V-S4: one byte short, nothing written. -/
theorem test_ckput_too_small :
    after { small true [0xEE#8, 0xEE#8, 0xEE#8] with ck := 0x322D#16, len := 2#24 } 0x15000000#32
      (fun t => (bytesOf t, t.st)) = some ([0xEE#8, 0xEE#8, 0xEE#8], 0x01#8) := by decide

/-- V-C8: the empty range's trailer is FF FF. -/
theorem test_ckvfy :
    after (small true [0xFF#8, 0xFF#8, 0x00#8, 0xFF#8]) 0x16000000#32 (fun t => (t.ck, t.st)) =
      some (0xFFFF#16, 0x00#8) := by decide

/-- V-C8: a trailer with a zero byte never matches, and `CK` holds the computed value. -/
theorem test_ckvfy_mismatch :
    after { small false [0xFF#8, 0xFF#8, 0x00#8, 0xFF#8] with off := 2#24, ck := 0x1234#16 } 0x16000000#32
      (fun t => (t.ck, t.st)) = some (0xFFFF#16, 0x02#8) := by decide

/-- V-B2, V-B5. -/
theorem test_bswap :
    after { small false [] with d := 0x0000000000C04240#64 } 0x20000004#32 (·.d) = some 0x000000004042C000#64 ∧
    after { small true [] with d := 0xFFFFFFFFFFFF1234#64 } 0x20000002#32 (·.d) = some 0xFFFFFFFFFFFF3412#64 := by decide

/-- V-P4: a fatal width keeps the `ERR` of the command before it (V-P3). -/
theorem test_bswap_bad_width :
    after { small false [] with d := 0x1234#64, st := 0x01#8 } 0x20000003#32 (fun t => (t.d, t.st)) =
      some (0x1234#64, 0x91#8) := by decide

/-- V-B6, on either host. -/
theorem test_norm :
    after { small false [] with d := 0x404200C0#64 } 0x21000002#32 (·.d) = some 0x404200C0#64 ∧
    after { small true [] with d := 0x404200C0#64 } 0x21000002#32 (·.d) = some 0x4042C000#64 := by decide

/-- V-B7, on either host. -/
theorem test_normm :
    after (fieldAt4 false) 0x22000004#32 bytesOf =
      some [0x01#8, 0x00#8, 0x20#8, 0x00#8, 0x78#8, 0x56#8, 0x34#8, 0x12#8] ∧
    after (fieldAt4 true) 0x22000004#32 bytesOf =
      some [0x01#8, 0x00#8, 0x20#8, 0x00#8, 0x12#8, 0x34#8, 0x56#8, 0x78#8] := by decide

/-- V-B18: the bounds test does not depend on the host. -/
theorem test_normm_too_small :
    after { small false [0x01#8, 0x02#8, 0x03#8, 0x04#8] with off := 4#24 } 0x22000001#32 (·.st) = some 0x01#8 := by
  decide

/-- V-B8, on either host. -/
theorem test_ldn :
    after (fieldAt4 false) 0x23000004#32 (·.d) = some 0x12345678#64 ∧
    after (fieldAt4 true) 0x23000004#32 (·.d) = some 0x78563412#64 := by decide

/-- V-B13 at width 2, on either host: the low bytes of `D`, in the host's order. -/
theorem test_stn :
    after { small false [0xCC#8, 0xCC#8, 0xCC#8] with d := 0x4042C000#64, off := 1#24 } 0x24000002#32 bytesOf =
      some [0xCC#8, 0x00#8, 0xC0#8] ∧
    after { small true [0xCC#8, 0xCC#8, 0xCC#8] with d := 0x4042C000#64, off := 1#24 } 0x24000002#32 bytesOf =
      some [0xCC#8, 0xC0#8, 0x00#8] := by decide

/-- V-B9 on a big-endian host: zero-extended over all of `D`. -/
theorem test_ldf :
    after { fieldAt4 true with d := 0xFFFFFFFFFFFFFFFF#64 } 0x25000004#32 (·.d) = some 0x12345678#64 := by decide

/-- R113's example: LDF 16 beyond the buffer is `BadWidth`. -/
theorem test_ldf_priority :
    after { fieldAt4 true with off := 0xFFFFFF#24 } 0x25000010#32 (·.st) = some 0x90#8 := by decide

/-- V-B12 on a big-endian host. -/
theorem test_stf :
    after { small true (List.replicate 12 0xCC#8) with d := 0x4042C00000000000#64, off := 2#24 } 0x26000008#32 bytesOf =
      some [0xCC#8, 0xCC#8, 0x00#8, 0x00#8, 0x00#8, 0x00#8, 0x00#8, 0xC0#8, 0x42#8, 0x40#8, 0xCC#8, 0xCC#8] := by decide

/-- V-E2, and V-E10's second step: an illegal word is fatal, and NOP then clears nothing. -/
theorem test_illegal_word :
    after (small false []) 0x7F000000#32 (·.st) = some 0xA0#8 ∧
    after { small false [] with st := 0xA0#8 } 0x00000000#32 (·.st) = some 0xA0#8 := by decide

/-- R122: reset clears FATAL and leaves the buffer. -/
theorem test_reset :
    got (step { fatalState with d := 5#64, pending := [.reset] }) (fun t => (t.d, t.st, t.cfg, t.bufByte 25)) =
      some (0#64, 0x00#8, 1#8, 0x2D#8) := by decide

/-- R132: the host writes a byte; offset `BUF_SIZE` has none. -/
theorem test_host_write :
    got (step { small false [0x00#8, 0x00#8] with pending := [.writeByte 1#24 0x13#8] }) bytesOf =
      some [0x00#8, 0x13#8] ∧
    got (step { small false [0x00#8, 0x00#8] with pending := [.writeByte 2#24 0x13#8] }) bytesOf = none := by decide

/-- A word placed right after reset is run by the next step, whatever the free parameters (log entries 2 and 3). -/
theorem test_first_after_reset :
    got (step (State.reset.withFetchWord 32 0x01000018)) (fun t => (t.off, t.pc)) = some (0x18#24, 1) ∧
    got (step (State.reset.withFetchWord 32 0x11000061)) (·.a1) = some 0x0160#16 ∧
    got (step (State.reset.withFetchWord 32 0x20000003)) (·.st) = some 0x90#8 := by decide

/-- R58, R57: `NORMHDR.REQ` and an operand that does not fit. -/
theorem test_pseudo :
    pseudoNormhdrReq 8 = some [.setoff 10#24, .normm 2#8, .setoff 12#24, .normm 4#8] ∧
    pseudoSeal 0 25 = some [.setoff 0#24, .setlen 25#24, .ckrange, .ckput] ∧
    pseudoCksum 0x1000000 0 = none := by decide

/-- V-S6 and P6: a payload length of 32 gives 56 covered bytes, the trailer at 56 and a frame of 58 bytes. -/
theorem test_frame_geometry :
    let s := fieldAt4 true
    s.payloadBytes 0 = 32 ∧ s.payloadWhole 0 = true ∧ s.coveredBytes .request 0 = 56 ∧
    FrameKind.request.region 0 32 .trailer = some (56, 2) ∧ FrameKind.request.frameBytes 32 = 58 ∧
    FrameKind.request.region 0 32 .version = some (0, 1) ∧ FrameKind.request.region 0 32 .reserved = some (1, 1) ∧
    FrameKind.response.region 0 16 .partner = none ∧ FrameKind.response.region 0 16 .trailer = some (36, 2) ∧
    s.sealFrame .request 0 = some [.setoff 0#24, .setlen 56#24, .ckrange, .ckput] := by decide

/-! ### Witnesses: states and operands that meet the hypotheses of each statement, clause by clause

`sealedRange` has `OFF = 0`, `LEN = 25` and 27 bytes, so its trailer ends exactly at `BUF_SIZE`. -/

/-- Both clauses. -/
theorem witness_nop : (sealedRange false).isFatal = false ∧ fatalState.isFatal = true := by decide

/-- SETOFF, SETLEN, SETD, CKINIT, CKB, CKFIN, LDD: any state that is not fatal, on either host. -/
theorem witness_setoff : (small false []).isFatal = false ∧ (sealedRange true).isFatal = false := by decide
theorem witness_setlen : (small false []).isFatal = false ∧ (sealedRange true).isFatal = false := by decide
theorem witness_setd : (small false []).isFatal = false ∧ (sealedRange true).isFatal = false := by decide
theorem witness_ckinit : (small false []).isFatal = false ∧ (sealedRange true).isFatal = false := by decide
theorem witness_lddLoadsAllOfD : (small false []).isFatal = false ∧ (sealedRange true).isFatal = false := by decide

/-- The chunk about to fill up, and not. -/
theorem witness_ckb :
    (small false []).isFatal = false ∧ (small false []).cnt ≠ 19#5 ∧
    ({ small false [] with cnt := 19#5 } : State).isFatal = false := by decide

/-- No chunk open, and one. -/
theorem witness_ckfin :
    (small false []).isFatal = false ∧ (small false []).cnt = 0#5 ∧
    ({ small false [] with cnt := 5#5 } : State).isFatal = false := by decide

/-- A range that ends exactly at `BUF_SIZE`, and one that ends a byte beyond. -/
theorem witness_range_bounds :
    let s : State := { sealedRange true with len := 27#24 }
    let t : State := { sealedRange true with len := 28#24 }
    s.isFatal = false ∧ s.off.toNat + s.len.toNat = s.bufSize ∧
    t.isFatal = false ∧ t.bufSize + 1 = t.off.toNat + t.len.toNat := by decide

theorem witness_ckabs : ∃ s t : State, s.isFatal = false ∧ s.off.toNat + s.len.toNat ≤ s.bufSize ∧
    t.isFatal = false ∧ t.bufSize < t.off.toNat + t.len.toNat :=
  ⟨sealedRange true, { sealedRange true with len := 28#24 }, by decide⟩

theorem witness_ckrange : ∃ s t : State, s.isFatal = false ∧ s.off.toNat + s.len.toNat ≤ s.bufSize ∧
    t.isFatal = false ∧ t.bufSize < t.off.toNat + t.len.toNat :=
  ⟨{ sealedRange false with len := 27#24 }, { sealedRange false with len := 28#24 }, by decide⟩

/-- A trailer that ends exactly at `BUF_SIZE`, and one that ends a byte beyond. -/
theorem witness_ckput :
    let s := sealedRange true
    let t : State := { sealedRange true with len := 26#24 }
    s.isFatal = false ∧ s.off.toNat + s.len.toNat + 2 = s.bufSize ∧
    t.isFatal = false ∧ t.bufSize + 1 = t.off.toNat + t.len.toNat + 2 := by decide

/-- The same, with a trailer that matches and one that does not. -/
theorem witness_ckvfy :
    let s := sealedRange true
    let t : State := { sealedRange true with len := 26#24 }
    let u : State := { sealedRange true with len := 24#24 }
    s.isFatal = false ∧ s.off.toNat + s.len.toNat + 2 ≤ s.bufSize ∧
    s.bufByte 26 ++ s.bufByte 25 = fletcher (rangeBytes s) ∧
    t.isFatal = false ∧ t.bufSize < t.off.toNat + t.len.toNat + 2 ∧
    u.off.toNat + u.len.toNat + 2 ≤ u.bufSize ∧ u.bufByte 25 ++ u.bufByte 24 ≠ fletcher (rangeBytes u) := by decide

/-- Each legal width, and illegal ones beside them. -/
theorem witness_bswap :
    (fieldAt4 false).isFatal = false ∧ legalWidth 1#8 = true ∧ legalWidth 2#8 = true ∧ legalWidth 4#8 = true ∧
    legalWidth 8#8 = true ∧ legalWidth 0#8 = false ∧ legalWidth 7#8 = false ∧ legalWidth 255#8 = false := by decide

/-- Either host, a legal width and an illegal one. -/
theorem witness_norm :
    (fieldAt4 true).isFatal = false ∧ (fieldAt4 true).cfg.getLsbD 0 = true ∧
    (fieldAt4 false).isFatal = false ∧ (fieldAt4 false).cfg.getLsbD 0 = false ∧
    legalWidth 8#8 = true ∧ legalWidth 6#8 = false := by decide

/-- NORMM, LDN, STN, LDF, STF: a field that ends exactly at `BUF_SIZE` on either host, one that does not fit, and a width
that is not legal. -/
theorem witness_field (hostBE : Bool) :
    let s := fieldAt4 hostBE
    s.isFatal = false ∧ s.cfg.getLsbD 0 = hostBE ∧ legalWidth 4#8 = true ∧ s.off.toNat + (4#8).toNat = s.bufSize ∧
    legalWidth 8#8 = true ∧ s.bufSize < s.off.toNat + (8#8).toNat ∧ legalWidth 3#8 = false := by
  cases hostBE <;> decide

theorem witness_normm : ∃ (w v x : BitVec 8) (s t : State), s.isFatal = false ∧ legalWidth w = true ∧
    s.off.toNat + w.toNat ≤ s.bufSize ∧ s.cfg.getLsbD 0 = true ∧
    t.isFatal = false ∧ t.off.toNat + w.toNat ≤ t.bufSize ∧ t.cfg.getLsbD 0 = false ∧
    legalWidth v = true ∧ s.bufSize < s.off.toNat + v.toNat ∧ legalWidth x = false :=
  ⟨4#8, 8#8, 6#8, fieldAt4 true, fieldAt4 false, by decide⟩

theorem witness_ldn : ∃ (w v x : BitVec 8) (s : State), s.isFatal = false ∧ legalWidth w = true ∧
    s.off.toNat + w.toNat ≤ s.bufSize ∧ legalWidth v = true ∧ s.bufSize < s.off.toNat + v.toNat ∧
    legalWidth x = false := ⟨4#8, 8#8, 6#8, fieldAt4 true, by decide⟩

theorem witness_stn : ∃ (w v x : BitVec 8) (s : State), s.isFatal = false ∧ legalWidth w = true ∧
    s.off.toNat + w.toNat ≤ s.bufSize ∧ legalWidth v = true ∧ s.bufSize < s.off.toNat + v.toNat ∧
    legalWidth x = false := ⟨2#8, 8#8, 5#8, fieldAt4 false, by decide⟩

theorem witness_ldf : ∃ (w v x : BitVec 8) (s : State), s.isFatal = false ∧ legalWidth w = true ∧
    s.off.toNat + w.toNat ≤ s.bufSize ∧ legalWidth v = true ∧ s.bufSize < s.off.toNat + v.toNat ∧
    legalWidth x = false := ⟨1#8, 8#8, 16#8, fieldAt4 true, by decide⟩

theorem witness_stf : ∃ (w v x : BitVec 8) (s : State), s.isFatal = false ∧ legalWidth w = true ∧
    s.off.toNat + w.toNat ≤ s.bufSize ∧ legalWidth v = true ∧ s.bufSize < s.off.toNat + v.toNat ∧
    legalWidth x = false := ⟨4#8, 8#8, 255#8, fieldAt4 false, by decide⟩

theorem witness_encodeDecodeAgree : decode 0x03034042#32 = .ok (.setd 3#2 0x4042#16) := by decide

/-- A word that fits its row, and one that fits none. -/
theorem witness_decoderAcceptsOpcodeMap :
    ∃ r ∈ opcodeRows, r.fits 0x0303FFFF#32 = true ∧ r.fits 0x03040000#32 = false ∧
      decode 0x0303FFFF#32 = .ok (.setd 3#2 0xFFFF#16) := ⟨⟨"SETD", 0x03000000#32, 0xFFFC0000#32⟩, by decide⟩

theorem witness_stepRunsDecodedCommand :
    ((sealedRange true).present 0x16000000#32).pending = .command 0x16000000#32 :: [] ∧
    decode 0x16000000#32 = .ok .ckvfy := by decide

theorem witness_placedWordRunsNext : decode 0x14000000#32 = .ok .ckrange ∧ (0x14000000#32).toNat = 0x14000000 := by
  decide

/-- The least and the greatest `OPC` of each unassigned range; a word with an unassigned `OPC`. -/
theorem witness_illegalWordIsFatal :
    (0x04000000#32 >>> 24).toNat = 0x04 ∧ (0x0FFFFFFF#32 >>> 24).toNat = 0x0F ∧ (0x17000000#32 >>> 24).toNat = 0x17 ∧
    (0x1FFFFFFF#32 >>> 24).toNat = 0x1F ∧ (0x27000000#32 >>> 24).toNat = 0x27 ∧
    ((small true []).present 0x27000000#32).pending = .command 0x27000000#32 :: [] ∧ (small true []).isFatal = false ∧
    ∀ r ∈ opcodeRows, 0x27000000#32 &&& r.mask ≠ r.value := by decide

/-- A word with an assigned `OPC` and a reserved bit set. -/
theorem witness_illegalWordIsFatal_reserved : ∀ r ∈ opcodeRows, 0x11000100#32 &&& r.mask ≠ r.value := by decide

theorem witness_fatalDiscardsCommands :
    fatalState.isFatal = true ∧ (fatalState.present 0x7F000000#32).isFatal = true ∧
    (fatalState.present 0x7F000000#32).pending = .command 0x7F000000#32 :: [] := by decide

theorem witness_badWidthIsFatal :
    (fieldAt4 false).isFatal = false ∧
    ∀ w ∈ [0#8, 3#8, 5#8, 6#8, 7#8, 9#8, 16#8, 255#8], w ≠ 1#8 ∧ w ≠ 2#8 ∧ w ≠ 4#8 ∧ w ≠ 8#8 := by decide

/-- Each form of the table of R37, at the bound and beyond it; the last pair is the empty range at and beyond the end. -/
theorem witness_boundsTestGuardsBuffer :
    let s := sealedRange true
    let t : State := { sealedRange true with len := 26#24 }
    let u : State := { sealedRange true with off := 27#24, len := 0#24 }
    let v : State := { sealedRange true with off := 28#24, len := 0#24 }
    s.isFatal = false ∧ t.isFatal = false ∧ u.isFatal = false ∧ v.isFatal = false ∧
    needs s .ckput = some 27 ∧ s.off.toNat + 27 ≤ s.bufSize ∧ needs t .ckvfy = some 28 ∧ t.bufSize < t.off.toNat + 28 ∧
    needs u .ckrange = some 0 ∧ u.off.toNat + 0 ≤ u.bufSize ∧ needs v .ckabs = some 0 ∧ v.bufSize < v.off.toNat + 0 ∧
    (Instr.ldf 8#8).widthLegal = true ∧ needs s (.ldf 8#8) = some 8 ∧ s.off.toNat + 8 ≤ s.bufSize := by decide

/-- One word for each level of the order. -/
theorem witness_conditionsHavePriority :
    let s := sealedRange true
    let v : State := { sealedRange true with off := 0xFFFFFF#24 }
    fatalState.isFatal = true ∧
    (s.isFatal = false ∧ legalWord 0x25000102#32 = false) ∧
    (v.isFatal = false ∧ decode 0x25000010#32 = .ok (.ldf 16#8) ∧ (Instr.ldf 16#8).widthLegal = false) ∧
    (decode 0x16000000#32 = .ok .ckvfy ∧ needs v .ckvfy = some 27 ∧ v.bufSize < v.off.toNat + 27) ∧
    (needs s .ckvfy = some 27 ∧ s.off.toNat + 27 ≤ s.bufSize) ∧
    (s.present 0x16000000#32).pending = .command 0x16000000#32 :: [] := by decide

theorem witness_commandEndsOneOfThreeWays : (sealedRange false).isFatal = false := by decide

theorem witness_onlyNamedWriters : ∃ t, exec .nop (sealedRange true) = .next t ∧ t.d = 0#64 := ⟨_, rfl, by decide⟩

/-- A byte of `BUF` that does change, and a command that reaches no byte. -/
theorem witness_onlyNamedBytes :
    (∃ t, exec .ckput (sealedRange true) = .next t ∧ t.bufByte 25 ≠ (sealedRange true).bufByte 25) ∧
    needs (sealedRange true) .ckfin = none := ⟨⟨_, rfl, by decide⟩, by decide⟩

theorem witness_strapAndSize : ∃ t, step { fatalState with pending := [.reset] } = .next t ∧ t.bufSize = 27 :=
  ⟨_, rfl, by decide⟩

theorem witness_onlyResetClearsFatal :
    fatalState.isFatal = true ∧ (fatalState.present 0x00000000#32).pending.head? ≠ some .reset ∧
    ∃ t, step (fatalState.present 0x00000000#32) = .next t ∧ t.st = 0x91#8 := ⟨by decide, by decide, _, rfl, by decide⟩

theorem witness_resetGivesResetValues : ({ fatalState with pending := [.reset] } : State).pending = .reset :: [] := by
  decide

/-- The last byte, and the offset just beyond it. -/
theorem witness_hostWriteChangesOneByte :
    let s : State := { sealedRange false with pending := [.writeByte 26#24 0x13#8] }
    let t : State := { sealedRange false with pending := [.writeByte 27#24 0x13#8] }
    s.pending = .writeByte 26#24 0x13#8 :: [] ∧ (26#24).toNat + 1 = s.bufSize ∧
    t.pending = .writeByte 27#24 0x13#8 :: [] ∧ t.bufSize = (27#24).toNat := by decide

/-- A state the invariants hold in, with a chunk open and bytes written, and its step. -/
theorem witness_everyStepKeepsInvariants :
    ∃ s t : State, s.Inv ∧ s.cnt = 19#5 ∧ step s = .next t := by
  refine ⟨({ sealedRange true with cnt := 19#5 } : State).present 0x12000000#32, _, ⟨?_, ?_, ?_, ?_, ?_⟩, rfl, rfl⟩
  all_goals
    first
    | unfold State.BufInv
    | unfold State.AccInv
    | unfold State.CkInv
    | unfold State.StInv
    | unfold State.CfgInv
    decide

/-- A run of one command from a reset. -/
theorem witness_accumulatorsNeverWrap :
    ∃ t : State, Host.Core.run core 1 ((small true []).present 0x11000061#32).afterReset = .next t ∧
      t.a1 = 0x0160#16 := ⟨_, rfl, by decide⟩

theorem witness_streamComputesFletcher :
    (small true []).a1 = 0x00FF#16 ∧ (small true []).a2 = 0x00FF#16 ∧ (small true []).cnt = 0#5 := by decide

/-- Both ends of the bit range. -/
theorem witness_singleBitErrors : (0 : Nat) < 8 ∧ (7 : Nat) < 8 := by decide

theorem witness_flippedBitFailsVerification :
    ∃ t, (sealedRange true).isFatal = false ∧
      (sealedRange true).off.toNat + (sealedRange true).len.toNat + 2 ≤ (sealedRange true).bufSize ∧
      24 < (sealedRange true).len.toNat ∧ 7 < 8 ∧ exec .ckvfy (sealedRange true) = .next t ∧ stErr t.st = 0#4 :=
  ⟨_, by decide, by decide, by decide, by decide, rfl, by decide⟩

theorem witness_sealedRangeVerifies :
    let s := sealedRange true
    s.isFatal = false ∧ s.off.toNat + s.len.toNat + 2 = s.bufSize := by decide

/-- 7 bytes and then 20, over a chunk boundary (P7). -/
theorem witness_streamFeedsInPieces :
    let s := sealedRange true
    s.isFatal = false ∧ (7#24).toNat = (0#24).toNat + (7#24).toNat ∧ (27#24).toNat = (7#24).toNat + (20#24).toNat ∧
    (0#24).toNat + (7#24).toNat + (20#24).toNat = s.bufSize := by decide

/-- Two states with different registers and hosts and the same range; `u` and `v` have no room for a trailer. -/
theorem witness_checksumKeepsNoState :
    let s := sealedRange true
    let t : State := { sealedRange false with a1 := 0x0160#16, cnt := 3#5, d := 9#64 }
    let u : State := { sealedRange true with len := 27#24 }
    let v : State := { sealedRange false with len := 27#24, ck := 0#16 }
    (s ≠ t ∧ s.isFatal = false ∧ t.isFatal = false ∧ s.off = t.off ∧ s.len = t.len ∧
      (∀ i < s.len.toNat, s.bufByte (s.off.toNat + i) = t.bufByte (s.off.toNat + i)) ∧
      s.off.toNat + s.len.toNat + 2 ≤ s.bufSize ∧ t.off.toNat + t.len.toNat + 2 ≤ t.bufSize) ∧
    (u ≠ v ∧ u.isFatal = false ∧ v.isFatal = false ∧ u.off = v.off ∧ u.len = v.len ∧
      (∀ i < u.len.toNat, u.bufByte (u.off.toNat + i) = v.bufByte (u.off.toNat + i)) ∧
      u.off.toNat + u.len.toNat + 0 = u.bufSize ∧ v.off.toNat + v.len.toNat + 0 = v.bufSize) := by decide

theorem witness_wireAccessIsLittleEndian : (65535 : Nat) < 65536 := by decide

theorem witness_swapIsSelfInverse : 0xFFFF < 256 ^ 2 ∧ 0x12 < 256 ^ 1 ∧ 0 < 256 ^ 0 := by decide

theorem witness_swapCommandsTwiceRestore :
    (fieldAt4 true).isFatal = false ∧ legalWidth 4#8 = true ∧
    (fieldAt4 true).off.toNat + (4#8).toNat = (fieldAt4 true).bufSize := by decide

theorem witness_fusedAccessesCompose :
    (fieldAt4 true).isFatal = false ∧ legalWidth 4#8 = true ∧
    (fieldAt4 true).off.toNat + (4#8).toNat ≤ (fieldAt4 true).bufSize := by decide

theorem witness_onlyFourCommandsDependOnHost : hostDependent (.stf 8#8) = false ∧ hostDependent .ckput = false := by
  decide

/-- Both clauses: a field and a sealed range. -/
theorem witness_frameCrossesHosts :
    let s := sealedRange true
    s.isFatal = false ∧ legalWidth 8#8 = true ∧ s.off.toNat + (8#8).toNat ≤ s.bufSize ∧
    s.off.toNat + s.len.toNat + 2 = s.bufSize := by decide

/-- Both headers, each exactly inside the buffer. -/
theorem witness_headerNormalization :
    (fieldAt4 true).isFatal = false ∧
    pseudoNormhdrReq 0 = some [.setoff 2#24, .normm 2#8, .setoff 4#24, .normm 4#8] ∧ 0 + 8 = (fieldAt4 true).bufSize ∧
    pseudoNormhdrRsp 4 = some [.setoff 6#24, .normm 2#8] ∧ 4 + 4 = (fieldAt4 true).bufSize := by
  decide

theorem witness_structNormalizationAnyOrder :
    (fieldAt4 true).isFatal = false ∧
    normalizeStruct .requestHeader 0 = some [.setoff 2#24, .normm 2#8, .setoff 4#24, .normm 4#8] ∧
    (∀ f ∈ fieldTable .requestHeader, 0 + f.1 + f.2.bytes ≤ (fieldAt4 true).bufSize) ∧
    [(4, Width.w4), (2, .w2)].Perm (fieldTable .requestHeader) := by decide

/-- A request frame with no payload that ends exactly at `BUF_SIZE`, and bytes in its last two regions. -/
theorem witness_frameIsLaidOutAndSealed :
    let s := small true (List.replicate 26 0x00#8)
    s.isFatal = false ∧ asmSetoff (payloadLenAt 0) = some (.setoff 2#24) ∧ 0 + 4 ≤ s.bufSize ∧
    s.sealFrame .request 0 = some [.setoff 0#24, .setlen 24#24, .ckrange, .ckput] ∧
    0 + FrameKind.request.frameBytes (s.payloadBytes 0) = s.bufSize ∧
    FrameKind.request.region 0 0 .iv = some (8, 16) ∧ FrameKind.request.region 0 0 .trailer = some (24, 2) := by decide

/-- A run of two words, the first of them fatal. -/
theorem witness_runOfCommandsEnds :
    let s : State := { small true [] with pending := [.command 0x20000003#32, .command 0x00000000#32] }
    s.commandsOnly = true ∧ s.pending = [0x20000003#32, 0x00000000#32].map .command ∧
    ∃ u : State, Host.Core.run core 1 s = .next u ∧ u.faulted = true := ⟨by decide, by decide, _, rfl, by decide⟩

theorem witness_lastOutcomeIsEnough :
    (fieldAt4 true).isFatal = false ∧ (2#24).toNat ≤ (4#24).toNat := by decide

/-- The empty range at 0; a width; a length; the empty range at 1 (V-C12). -/
theorem witness_emptyBufferIsLegal :
    let s := small true []
    let t : State := { small true [] with off := 1#24 }
    s.isFatal = false ∧ s.bufSize = 0 ∧ s.off = 0#24 ∧ s.len = 0#24 ∧
    needs s .ckput = some 2 ∧ 0 < 2 ∧ (Instr.ckput).widthLegal = true ∧
    needs s (.ldf 1#8) = some 1 ∧ (Instr.ldf 1#8).widthLegal = true ∧
    t.isFatal = false ∧ t.bufSize = 0 ∧ needs t .ckabs = some 0 ∧ t.off ≠ 0#24 := by decide

end Sys2Proof.Tests
end

/-! PROOFS of the family spec/10_state.md: what a command can do, what a step can do, and from these the frame of every
command, the invariants of the state, and reset. -/

namespace Sys2Proof.Machine

open Sys2Proof.Claims

section Commands

variable {s t u : State} {i : Instr} {e : Ending}

/-! ### What a command can do -/

/-- `Effect s i u`: the body of `i` passes its width and bounds tests in `s` and turns `s` into `u`; `ST` is written
afterwards (R109). -/
inductive Effect (s : State) : Instr → State → Prop
  | nop : Effect s .nop s
  | setoff (imm : BitVec 24) : Effect s (.setoff imm) (s.setOff imm)
  | setlen (imm : BitVec 24) : Effect s (.setlen imm) (s.setLen imm)
  | setd (k : BitVec 2) (imm : BitVec 16) : Effect s (.setd k imm) (s.setD (withLane k s.d imm))
  | ckinit : Effect s .ckinit s.reseed
  | ckb (b : BitVec 8) : Effect s (.ckb b) (s.absorb b)
  | ckabs (hb : s.off.toNat + s.len.toNat ≤ s.bufSize) :
      Effect s .ckabs (s.absorbAll (s.memRead s.off.toNat s.len.toNat))
  | ckfin : Effect s .ckfin s.finish
  | ckrange (hb : s.off.toNat + s.len.toNat ≤ s.bufSize) : Effect s .ckrange s.checksumRange
  | ckput (hb : s.off.toNat + (s.len.toNat + Config.trailerBytes) ≤ s.bufSize) :
      Effect s .ckput (s.wireWrite s.trailerAt Config.trailerBytes s.ck.toNat)
  | ckvfy (hb : s.off.toNat + (s.len.toNat + Config.trailerBytes) ≤ s.bufSize) : Effect s .ckvfy s.checksumRange
  | bswap {w : BitVec 8} {v : Width} (hv : Width.ofField w = some v) :
      Effect s (.bswap w) (s.setD (withLowBytes v.bytes s.d (bswapNat v.bytes (lowBytes v.bytes s.d))))
  | norm {w : BitVec 8} {v : Width} (hv : Width.ofField w = some v) :
      Effect s (.norm w) (s.setD (withLowBytes v.bytes s.d (normalizeNat s.hostBE v.bytes (lowBytes v.bytes s.d))))
  | normm {w : BitVec 8} {v : Width} (hv : Width.ofField w = some v) (hb : s.off.toNat + v.bytes ≤ s.bufSize) :
      Effect s (.normm w) (s.normalizeField s.off.toNat v.bytes)
  | ldn {w : BitVec 8} {v : Width} (hv : Width.ofField w = some v) (hb : s.off.toNat + v.bytes ≤ s.bufSize) :
      Effect s (.ldn w) (s.loadD (s.nativeRead s.off.toNat v.bytes))
  | stn {w : BitVec 8} {v : Width} (hv : Width.ofField w = some v) (hb : s.off.toNat + v.bytes ≤ s.bufSize) :
      Effect s (.stn w) (s.nativeWrite s.off.toNat v.bytes (lowBytes v.bytes s.d))
  | ldf {w : BitVec 8} {v : Width} (hv : Width.ofField w = some v) (hb : s.off.toNat + v.bytes ≤ s.bufSize) :
      Effect s (.ldf w) (s.loadD (s.wireRead s.off.toNat v.bytes))
  | stf {w : BitVec 8} {v : Width} (hv : Width.ofField w = some v) (hb : s.off.toNat + v.bytes ≤ s.bufSize) :
      Effect s (.stf w) (s.wireWrite s.off.toNat v.bytes (lowBytes v.bytes s.d))

/-- `Ends s i e`: in `s` the body of `i` may end as `e`, with the test that leads there (R37, R73, R81). -/
inductive Ends (s : State) (i : Instr) : Ending → Prop
  | done {u : State} (hu : Effect s i u)
      (hmatch : i = .ckvfy → s.wireRead s.trailerAt Config.trailerBytes = s.checksumRange.ck.toNat) : Ends s i (.done u)
  | mismatch {u : State} (hu : Effect s i u) (hi : i = .ckvfy)
      (hne : s.wireRead s.trailerAt Config.trailerBytes ≠ s.checksumRange.ck.toNat) :
      Ends s i (.err .checksumMismatch u)
  | tooSmall {n : Nat} (hn : needs s i = some n) (hb : s.bufSize < s.off.toNat + n) : Ends s i (.err .bufferTooSmall s)
  | badWidth (hw : i.widthLegal = false) : Ends s i (.fatal .badWidth)

theorem Ends.inBounds {n : Nat} {body : State → Ending} (hn : needs s i = some n)
    (hbody : s.off.toNat + n ≤ s.bufSize → Ends s i (body s)) : Ends s i (s.inBounds s.off.toNat n body) := by
  obtain ⟨hb, heq⟩ | ⟨hb, heq⟩ := s.inBounds_cases s.off.toNat n body
  · exact heq ▸ hbody hb
  · exact heq ▸ .tooSmall hn hb

theorem Ends.withWidth {w : BitVec 8} {body : Width → Ending} (hi : i.widthLegal = legalWidth w)
    (hbody : ∀ v, Width.ofField w = some v → Ends s i (body v)) : Ends s i (withWidth w body) := by
  obtain ⟨hw, heq⟩ | ⟨v, hv, heq⟩ := withWidth_cases w body
  · exact heq ▸ .badWidth (hi.trans hw)
  · exact heq ▸ hbody v hv

/-- The two tests of NORMM, LDN, STN, LDF and STF in their order. -/
theorem Ends.withWidth_inBounds {w : BitVec 8} {body : Width → State → Ending} (hi : i.widthLegal = legalWidth w)
    (hn : needs s i = some w.toNat)
    (hbody : ∀ v, Width.ofField w = some v → s.off.toNat + v.bytes ≤ s.bufSize → Ends s i (body v s)) :
    Ends s i (Machine.withWidth w fun v => s.inBounds s.off.toNat v.bytes (body v)) :=
  .withWidth hi fun v hv => .inBounds (by rw [hn, Width_ofField_bytes hv]) (hbody v hv)

theorem Ends.compareTrailer (hb : s.off.toNat + (s.len.toNat + Config.trailerBytes) ≤ s.bufSize) :
    Ends s .ckvfy s.compareTrailer := by
  unfold State.compareTrailer
  split_ifs with hmatch
  · exact .done (.ckvfy hb) fun _ => hmatch
  · exact .mismatch (.ckvfy hb) rfl hmatch

/-- Every command is issued (R109) with an ending its body may have. -/
theorem exec_eq_issue (i : Instr) (s : State) : ∃ e, exec i s = s.issue e ∧ Ends s i e := by
  cases i with
  | nop => exact ⟨_, rfl, .done .nop nofun⟩
  | setoff imm => exact ⟨_, rfl, .done (.setoff imm) nofun⟩
  | setlen imm => exact ⟨_, rfl, .done (.setlen imm) nofun⟩
  | setd k imm => exact ⟨_, rfl, .done (.setd k imm) nofun⟩
  | ckinit => exact ⟨_, rfl, .done .ckinit nofun⟩
  | ckb b => exact ⟨_, rfl, .done (.ckb b) nofun⟩
  | ckabs => exact ⟨_, rfl, .inBounds rfl fun hb => .done (.ckabs hb) nofun⟩
  | ckfin => exact ⟨_, rfl, .done .ckfin nofun⟩
  | ckrange => exact ⟨_, rfl, .inBounds rfl fun hb => .done (.ckrange hb) nofun⟩
  | ckput => exact ⟨_, rfl, .inBounds rfl fun hb => .done (.ckput hb) nofun⟩
  | ckvfy => exact ⟨_, rfl, .inBounds rfl .compareTrailer⟩
  | bswap w => exact ⟨_, rfl, .withWidth rfl fun _ hv => .done (.bswap hv) nofun⟩
  | norm w => exact ⟨_, rfl, .withWidth rfl fun _ hv => .done (.norm hv) nofun⟩
  | normm w => exact ⟨_, rfl, .withWidth_inBounds rfl rfl fun _ hv hb => .done (.normm hv hb) nofun⟩
  | ldn w => exact ⟨_, rfl, .withWidth_inBounds rfl rfl fun _ hv hb => .done (.ldn hv hb) nofun⟩
  | stn w => exact ⟨_, rfl, .withWidth_inBounds rfl rfl fun _ hv hb => .done (.stn hv hb) nofun⟩
  | ldf w => exact ⟨_, rfl, .withWidth_inBounds rfl rfl fun _ hv hb => .done (.ldf hv hb) nofun⟩
  | stf w => exact ⟨_, rfl, .withWidth_inBounds rfl rfl fun _ hv hb => .done (.stf hv hb) nofun⟩

/-- In a fatal state every command is discarded (R109 line 1). -/
theorem exec_fatal (hf : s.isFatal = true) (i : Instr) : exec i s = .next s := by
  obtain ⟨e, he, -⟩ := exec_eq_issue i s
  rw [he, State.issue_fatal hf]

/-- What is issued is discarded, or concluded as it ends (R109). -/
theorem State.issue_eq_or_conclude (h : s.issue e = .next t) :
    (s.isFatal = true ∧ t = s) ∨ (s.isFatal = false ∧ t = s.conclude e) := by
  cases hf : s.isFatal with
  | true => exact .inl ⟨rfl, Host.Outcome.next.inj (h.symm.trans (State.issue_fatal hf e))⟩
  | false => exact .inr ⟨rfl, Host.Outcome.next.inj (h.symm.trans (State.issue_running hf e))⟩

/-- Everything a command can do: discarded, or ended as its body ends. -/
theorem exec_cases (h : exec i s = .next t) :
    (s.isFatal = true ∧ t = s) ∨ (s.isFatal = false ∧ ∃ e, Ends s i e ∧ t = s.conclude e) := by
  obtain ⟨e, he, hends⟩ := exec_eq_issue i s
  exact (State.issue_eq_or_conclude (he ▸ h)).imp_right fun ⟨hf, ht⟩ => ⟨hf, e, hends, ht⟩

/-- Everything an illegal word can do. -/
theorem issueIllegal_cases (h : s.issueIllegal = .next t) :
    (s.isFatal = true ∧ t = s) ∨ (s.isFatal = false ∧ t = s.raiseFatal .illegalCommand) :=
  State.issue_eq_or_conclude h

/-! ### What a step can do -/

/-- A command word that is legal. -/
theorem step_command {c : CmdWord} {q : List HostAction} (h : s.pending = .command c :: q) (hd : decode c = .ok i) :
    step s = exec i ((s.setPending q).setPc (s.pc + 1)) := by
  simp [step, State.takeAction, h, hd]

/-- Everything a step can do, by the host's next action. -/
theorem step_cases (h : step s = .next t) :
    (s.pending = [] ∧ t = s) ∨
    (∃ c q i, s.pending = .command c :: q ∧ decode c = .ok i ∧
      exec i ((s.setPending q).setPc (s.pc + 1)) = .next t) ∨
    (∃ c q r, s.pending = .command c :: q ∧ decode c = .error r ∧
      ((s.setPending q).setPc (s.pc + 1)).issueIllegal = .next t) ∨
    (∃ a b q, s.pending = .writeByte a b :: q ∧ a.toNat < s.bufSize ∧ t = (s.setPending q).setByte a.toNat b) ∨
    (∃ q, s.pending = .reset :: q ∧ t = (s.setPending q).afterReset) := by
  match hp : s.pending with
  | [] =>
    exact .inl ⟨rfl, Host.Outcome.next.inj (h.symm.trans (step_idle hp))⟩
  | .command c :: q =>
    match hd : decode c with
    | .ok i => exact .inr (.inl ⟨c, q, i, rfl, hd, step_command hp hd ▸ h⟩)
    | .error r => exact .inr (.inr (.inl ⟨c, q, r, rfl, hd, step_illegal hp hd ▸ h⟩))
  | .writeByte a b :: q =>
    rw [step_writeByte hp, State.hostWrite] at h
    split_ifs at h with ha
    exact .inr (.inr (.inr (.inl ⟨a, b, q, rfl, ha, (Host.Outcome.next.inj h).symm⟩)))
  | .reset :: q =>
    exact .inr (.inr (.inr (.inr ⟨q, rfl, Host.Outcome.next.inj (h.symm.trans (step_reset hp))⟩)))

/-! ### What no command changes (R13) -/

/-- `i` takes `s` to `t` and changes no register but `ST` that R13's table does not name it for. -/
structure KeepsUnnamed (i : Instr) (s t : State) : Prop where
  d : writesD i = false → t.d = s.d
  off : writesOff i = false → t.off = s.off
  len : writesLen i = false → t.len = s.len
  acc : writesAcc i = false → t.a1 = s.a1 ∧ t.a2 = s.a2 ∧ t.cnt = s.cnt
  ck : writesCk i = false → t.ck = s.ck
  buf : writesBuf i = false → t.buf = s.buf
  cfg : t.cfg = s.cfg
  bufSize : t.bufSize = s.bufSize
  pending : t.pending = s.pending
  pc : t.pc = s.pc

namespace KeepsUnnamed

theorem refl (i : Instr) (s : State) : KeepsUnnamed i s s where
  d _ := rfl
  off _ := rfl
  len _ := rfl
  acc _ := ⟨rfl, rfl, rfl⟩
  ck _ := rfl
  buf _ := rfl
  cfg := rfl
  bufSize := rfl
  pending := rfl
  pc := rfl

theorem setD (h : KeepsUnnamed i s t) (hw : writesD i = true) (v : BitVec 64) : KeepsUnnamed i s (t.setD v) :=
  { h with d := by simp [hw] }

theorem setOff (h : KeepsUnnamed i s t) (hw : writesOff i = true) (v : Offset) : KeepsUnnamed i s (t.setOff v) :=
  { h with off := by simp [hw] }

theorem setLen (h : KeepsUnnamed i s t) (hw : writesLen i = true) (v : BitVec 24) : KeepsUnnamed i s (t.setLen v) :=
  { h with len := by simp [hw] }

theorem setAcc (h : KeepsUnnamed i s t) (hw : writesAcc i = true) (x y : BitVec 16) (c : BitVec 5) :
    KeepsUnnamed i s (t.setAcc x y c) :=
  { h with acc := by simp [hw] }

theorem setCk (h : KeepsUnnamed i s t) (hw : writesCk i = true) (v : BitVec 16) : KeepsUnnamed i s (t.setCk v) :=
  { h with ck := by simp [hw] }

theorem setBuf (h : KeepsUnnamed i s t) (hw : writesBuf i = true) (m : Memory) : KeepsUnnamed i s (t.setBuf m) :=
  { h with buf := by simp [hw] }

theorem setSt (h : KeepsUnnamed i s t) (v : BitVec 8) : KeepsUnnamed i s (t.setSt v) := { h with }

end KeepsUnnamed

/-- A command that R13 names for `BUF` writes one range of bytes that lies inside the buffer, and nothing else. -/
theorem Effect.eq_memWrite (hu : Effect s i u) (hw : writesBuf i = true) :
    ∃ a bs, a + bs.length ≤ s.bufSize ∧ u = s.memWrite a bs := by
  cases hu with
  | ckput hb =>
    obtain ⟨bs, hlen, heq⟩ := s.nativeWrite_is_memWrite s.trailerAt Config.trailerBytes
      (normalizeNat s.hostBE Config.trailerBytes s.ck.toNat)
    exact ⟨_, bs, by rw [hlen, State.trailerAt]; omega, heq⟩
  | @normm _ v _ hb =>
    rw [State.normalizeField]
    split_ifs with hbe
    · exact ⟨_, _, by simpa using hb, rfl⟩
    · exact ⟨s.off.toNat, [], by simp; omega, rfl⟩
  | @stn _ v _ hb =>
    obtain ⟨bs, hlen, heq⟩ := s.nativeWrite_is_memWrite s.off.toNat v.bytes (lowBytes v.bytes s.d)
    exact ⟨_, bs, by omega, heq⟩
  | @stf _ v _ hb =>
    obtain ⟨bs, hlen, heq⟩ := s.nativeWrite_is_memWrite s.off.toNat v.bytes
      (normalizeNat s.hostBE v.bytes (lowBytes v.bytes s.d))
    exact ⟨_, bs, by omega, heq⟩
  | _ => cases hw

theorem KeepsUnnamed.of_writesBuf (hu : Effect s i u) (hw : writesBuf i = true) : KeepsUnnamed i s u := by
  obtain ⟨a, bs, -, rfl⟩ := hu.eq_memWrite hw
  rw [State.memWrite_eq_setBuf]
  exact (KeepsUnnamed.refl i s).setBuf hw _

theorem Effect.keepsUnnamed (hu : Effect s i u) : KeepsUnnamed i s u := by
  have hs := KeepsUnnamed.refl i s
  cases hu with
  | nop => exact hs
  | setoff imm => exact hs.setOff rfl _
  | setlen imm => exact hs.setLen rfl _
  | setd | bswap | norm | ldn | ldf => exact hs.setD rfl _
  | ckinit => exact hs.setAcc rfl _ _ _
  | ckb b => exact s.absorb_eq_setAcc b ▸ hs.setAcc rfl _ _ _
  | ckabs hb => exact s.absorbAll_eq_setAcc _ ▸ hs.setAcc rfl _ _ _
  | ckfin | ckrange | ckvfy => exact (hs.setCk rfl _).setAcc rfl _ _ _
  | ckput hb => exact .of_writesBuf (.ckput hb) rfl
  | normm hv hb => exact .of_writesBuf (.normm hv hb) rfl
  | stn hv hb => exact .of_writesBuf (.stn hv hb) rfl
  | stf hv hb => exact .of_writesBuf (.stf hv hb) rfl

theorem exec_keepsUnnamed (h : exec i s = .next t) : KeepsUnnamed i s t := by
  obtain ⟨-, rfl⟩ | ⟨-, e, hends, rfl⟩ := exec_cases h
  · exact .refl i t
  · cases hends with
    | done hu _ => exact hu.keepsUnnamed.setSt _
    | mismatch hu _ _ => exact hu.keepsUnnamed.setSt _
    | tooSmall _ _ => exact (KeepsUnnamed.refl i s).setSt _
    | badWidth _ => exact (KeepsUnnamed.refl i s).setSt _

/-- The body of a command leaves `ST` to the wrapper. -/
theorem Effect.st_eq (hu : Effect s i u) : u.st = s.st := by
  cases hw : writesBuf i with
  | true =>
    obtain ⟨a, bs, -, rfl⟩ := hu.eq_memWrite hw
    exact s.memWrite_st a bs
  | false =>
    cases hu with
    | ckb b => rw [State.absorb_eq_setAcc, State.setAcc_st]
    | ckabs hb => rw [State.absorbAll_eq_setAcc, State.setAcc_st]
    | ckput | normm | stn | stf => cases hw
    | _ => rfl

end Commands

/-! ### Predicates that every step keeps -/

section Closed

variable {s t u : State} {i : Instr} {e : Ending} {P : State → Prop}

/-- `P` is kept by each thing a step can do: taking the host's next action, a command's effect and what the wrapper
writes to `ST` after it, a byte the host writes, a reset. -/
structure StepClosed (P : State → Prop) : Prop where
  pending : ∀ {s} q, P s → P (s.setPending q)
  pc : ∀ {s} n, P s → P (s.setPc n)
  effect : ∀ {s i u}, Effect s i u → P s → P u
  err : ∀ {s e}, e = 0#4 ∨ e = 1#4 ∨ e = 2#4 → P s → P (s.setErr e)
  fatal : ∀ {s c}, c = .badWidth ∨ c = .illegalCommand → P s → P (s.raiseFatal c)
  hostByte : ∀ {s a} b, a < s.bufSize → P s → P (s.setByte a b)
  reset : ∀ {s}, P s → P s.afterReset

theorem StepClosed.conclude (hP : StepClosed P) (hends : Ends s i e) (hs : P s) : P (s.conclude e) := by
  cases hends with
  | done hu _ => exact hP.err (.inl rfl) (hP.effect hu hs)
  | mismatch hu _ _ => exact hP.err (.inr (.inr rfl)) (hP.effect hu hs)
  | tooSmall _ _ => exact hP.err (.inr (.inl rfl)) hs
  | badWidth _ => exact hP.fatal (.inl rfl) hs

theorem StepClosed.exec (hP : StepClosed P) (hs : P s) (h : exec i s = .next t) : P t := by
  obtain ⟨-, rfl⟩ | ⟨-, e, hends, rfl⟩ := exec_cases h
  · exact hs
  · exact hP.conclude hends hs

theorem StepClosed.issueIllegal (hP : StepClosed P) (hs : P s) (h : s.issueIllegal = .next t) : P t := by
  obtain ⟨-, rfl⟩ | ⟨-, rfl⟩ := issueIllegal_cases h
  · exact hs
  · exact hP.fatal (.inr rfl) hs

theorem StepClosed.step (hP : StepClosed P) (hs : P s) (h : step s = .next t) : P t := by
  have htaken : ∀ q, P ((s.setPending q).setPc (s.pc + 1)) := fun q => hP.pc _ (hP.pending q hs)
  obtain ⟨-, rfl⟩ | ⟨_, q, i, -, -, hexec⟩ | ⟨_, q, _, -, -, hill⟩ | ⟨a, b, q, -, ha, rfl⟩ | ⟨q, -, rfl⟩ := step_cases h
  · exact hs
  · exact hP.exec (htaken q) hexec
  · exact hP.issueIllegal (htaken q) hill
  · exact hP.hostByte b ha (hP.pending q hs)
  · exact hP.reset (hP.pending q hs)

/-- A run of `n + 1` steps is a step and a run of `n`. -/
theorem core_run_succ {n : Nat} (h : Host.Core.run core (n + 1) s = .next t) :
    ∃ u, step s = .next u ∧ Host.Core.run core n u = .next t := by
  simp only [Host.Core.run] at h
  split at h
  next u hstep => exact ⟨u, hstep, h⟩
  all_goals cases h

theorem StepClosed.run (hP : StepClosed P) (hs : P s) (n : Nat) (h : Host.Core.run core n s = .next t) : P t := by
  induction n generalizing s with
  | zero => exact Host.Outcome.next.inj h ▸ hs
  | succ n ih =>
    obtain ⟨u, hstep, hrun⟩ := core_run_succ h
    exact ih (hP.step hs hstep) hrun

end Closed

/-! ### The bounds of the two sums (R28, R64) -/

/-- The bounds of R64 on the sums after `k` bytes of a chunk. -/
def Sums.Bounded (x : Sums) (k : Nat) : Prop :=
  1 ≤ x.a1.toNat ∧ x.a1.toNat ≤ 510 + 255 * k ∧
  1 ≤ x.a2.toNat ∧ 2 * x.a2.toNat ≤ 2 * 510 + 2 * (510 * k) + 255 * (k * (k + 1))

theorem State.accInv_iff (s : State) :
    s.AccInv ↔ s.cnt.toNat ≤ 19 ∧ (Sums.mk s.a1 s.a2).Bounded s.cnt.toNat := Iff.rfl

theorem seed_bounded : (Sums.mk Config.seed Config.seed).Bounded 0 := by unfold Sums.Bounded; decide

/-- The sums after one more byte, before any reduction modulo 2^16, within R64's bounds for a chunk of at most 20. -/
theorem Sums.Bounded.no_wrap {x : Sums} {k : Nat} (h : x.Bounded k) (hk : k ≤ 19) (b : Byte) :
    x.a1.toNat + b.toNat ≤ 5610 ∧ x.a2.toNat + (x.a1.toNat + b.toNat) ≤ 64260 := by
  obtain ⟨-, h1, -, h2⟩ := h
  have hb := b.isLt
  have hkk : k * (k + 1) ≤ 19 * 20 := Nat.mul_le_mul hk (by omega)
  omega

theorem Sums.Bounded.addByte {x : Sums} {k : Nat} (h : x.Bounded k) (hk : k ≤ 19) (b : Byte) :
    (x.addByte b).Bounded (k + 1) := by
  obtain ⟨hw1, hw2⟩ := h.no_wrap hk b
  have ha1 : (x.addByte b).a1.toNat = x.a1.toNat + b.toNat := by rw [Sums_addByte_a1]; omega
  have ha2 : (x.addByte b).a2.toNat = x.a2.toNat + (x.a1.toNat + b.toNat) := by rw [Sums_addByte_a2, ha1]; omega
  obtain ⟨hpos1, h1, hpos2, h2⟩ := h
  have hb := b.isLt
  have hkk : (k + 1) * (k + 1 + 1) = k * (k + 1) + 2 * (k + 1) := by ring
  rw [Sums.Bounded, ha1, ha2, hkk]
  omega

theorem Sums.Bounded.foldl_addByte {x : Sums} {k : Nat} (bs : List Byte) (h : x.Bounded k)
    (hk : k + bs.length ≤ 20) : (bs.foldl Sums.addByte x).Bounded (k + bs.length) := by
  induction bs generalizing x k with
  | nil => exact h
  | cons b bs ih =>
    simp only [List.length_cons] at hk ⊢
    rw [List.foldl_cons, show k + (bs.length + 1) = k + 1 + bs.length by omega]
    exact ih (h.addByte (by omega) b) (by omega)

theorem fold16_pos {v : BitVec 16} (h : 1 ≤ v.toNat) : 1 ≤ (fold16 v).toNat := by
  rw [fold16_toNat]; omega

theorem fold16_le (v : BitVec 16) : (fold16 v).toNat ≤ 510 := by
  have := v.isLt
  rw [fold16_toNat]; omega

theorem fold16_le_byte {v : BitVec 16} (h : v.toNat ≤ 510) : (fold16 v).toNat ≤ 255 := by
  rw [fold16_toNat]; omega

/-- A fold leads back to the bounds of a chunk start. -/
theorem Sums.Bounded.fold {x : Sums} {k : Nat} (h : x.Bounded k) : x.fold.Bounded 0 := by
  obtain ⟨hpos1, -, hpos2, -⟩ := h
  have h1 := fold16_le x.a1
  have h2 := fold16_le x.a2
  exact ⟨fold16_pos hpos1, h1, fold16_pos hpos2, Nat.mul_le_mul_left 2 h2⟩

theorem Sums.Bounded.chunkLoop {x : Sums} (fuel : Nat) (bs : List Byte) (h : x.Bounded 0) :
    (chunkLoop fuel x bs).Bounded 0 := by
  induction fuel generalizing x bs with
  | zero => exact h
  | succ fuel ih =>
    cases bs with
    | nil => exact h
    | cons b bs =>
      have hlen : ((b :: bs).take Config.chunkMax).length ≤ 20 := List.length_take_le _ _
      exact ih _ (h.foldl_addByte _ (by omega)).fold

/-- Two sums that each fit a byte are the two bytes of the result. -/
theorem Sums.result_toNat {x : Sums} (h1 : x.a1.toNat ≤ 255) (h2 : x.a2.toNat ≤ 255) :
    x.result.toNat = 256 * x.a2.toNat + x.a1.toNat := by
  have hshift : x.a2.toNat <<< 8 % 2 ^ 16 = x.a2.toNat <<< 8 := Nat.mod_eq_of_lt (by rw [Nat.shiftLeft_eq]; omega)
  rw [Sums.result, BitVec.toNat_or, BitVec.toNat_shiftLeft, hshift, ← Nat.shiftLeft_add_eq_or_of_lt (by omega),
    Nat.shiftLeft_eq]
  omega

/-- Neither byte of a checksum is 0x00 (R28 d). -/
def NonzeroBytes (v : BitVec 16) : Prop := v.extractLsb' 0 8 ≠ 0#8 ∧ v.extractLsb' 8 8 ≠ 0#8

theorem State.ckInv_iff (s : State) : s.CkInv ↔ NonzeroBytes s.ck := Iff.rfl

/-- The fold that ends a checksum leaves two bytes from 1 to 0xFF (R64). -/
theorem Sums.Bounded.nonzeroBytes_result {x : Sums} (h : x.Bounded 0) : NonzeroBytes x.fold.result := by
  obtain ⟨hpos1, h1, hpos2, h2⟩ := h
  have hf1 : x.fold.a1.toNat ≤ 255 := fold16_le_byte h1
  have hf2 : x.fold.a2.toNat ≤ 255 := fold16_le_byte (by omega)
  have hp1 : 1 ≤ x.fold.a1.toNat := fold16_pos hpos1
  have hp2 : 1 ≤ x.fold.a2.toNat := fold16_pos hpos2
  have hres := Sums.result_toNat hf1 hf2
  refine ⟨fun hzero => ?_, fun hzero => ?_⟩
  all_goals
    have hbyte := congrArg BitVec.toNat hzero
    rw [BitVec.extractLsb'_toNat, hres, BitVec.toNat_zero] at hbyte
    omega

theorem fletcher_nonzeroBytes (bs : List Byte) : NonzeroBytes (fletcher bs) :=
  (seed_bounded.chunkLoop bs.length bs).nonzeroBytes_result

/-! ### Each invariant is kept -/

section Invariants

variable {s t u : State} {i : Instr}

theorem State.accInv_of_chunkStart (hcnt : s.cnt = 0#5) (h : (Sums.mk s.a1 s.a2).Bounded 0) : s.AccInv := by
  rw [State.accInv_iff, hcnt]
  exact ⟨by decide, h⟩

theorem State.AccInv.no_wrap (h : s.AccInv) (b : Byte) :
    s.a1.toNat + b.toNat ≤ 5610 ∧ s.a2.toNat + (s.a1.toNat + b.toNat) ≤ 64260 := by
  obtain ⟨hcnt, hsums⟩ := s.accInv_iff.1 h
  exact hsums.no_wrap hcnt b

theorem State.AccInv.absorb (h : s.AccInv) (b : Byte) : (s.absorb b).AccInv := by
  obtain ⟨hcnt, hsums⟩ := s.accInv_iff.1 h
  have hsums' := hsums.addByte hcnt b
  have hnext : (s.cnt + 1#5).toNat = s.cnt.toNat + 1 := by
    rw [BitVec.toNat_add, BitVec.toNat_ofNat]
    omega
  simp only [State.absorb]
  split_ifs with hfull
  · exact State.accInv_of_chunkStart rfl hsums'.fold
  · have hne : s.cnt.toNat + 1 ≠ 20 := fun h20 => hfull (BitVec.eq_of_toNat_eq (hnext.trans h20))
    rw [State.accInv_iff, State.setAcc_cnt, hnext]
    exact ⟨by omega, hsums'⟩

theorem State.AccInv.absorbAll (h : s.AccInv) (bs : List Byte) : (s.absorbAll bs).AccInv := by
  induction bs generalizing s with
  | nil => exact h
  | cons b bs ih => exact ih (h.absorb b)

theorem State.reseed_accInv (s : State) : s.reseed.AccInv := State.accInv_of_chunkStart rfl seed_bounded

theorem Effect.accInv (hu : Effect s i u) (h : s.AccInv) : u.AccInv := by
  cases hw : writesAcc i with
  | true =>
    cases hu with
    | ckb b => exact h.absorb b
    | ckabs hb => exact h.absorbAll _
    | ckinit | ckfin | ckrange | ckvfy => exact State.reseed_accInv _
    | _ => cases hw
  | false =>
    obtain ⟨ha1, ha2, hcnt⟩ := hu.keepsUnnamed.acc hw
    rwa [State.AccInv, ha1, ha2, hcnt]

/-- `finish` folds once more what a chunk's fold has left, if a chunk was open (R61). -/
theorem State.AccInv.finish_ckInv (h : s.AccInv) : s.finish.CkInv := by
  rw [State.accInv_iff] at h
  rw [State.ckInv_iff, State.finish, State.reseed_ck, State.setCk_ck]
  split_ifs with hcnt
  · rw [hcnt] at h
    exact h.2.nonzeroBytes_result
  · exact h.2.fold.nonzeroBytes_result

theorem Effect.ckInv (hu : Effect s i u) (ha : s.AccInv) (h : s.CkInv) : u.CkInv := by
  cases hw : writesCk i with
  | true =>
    cases hu with
    | ckfin => exact ha.finish_ckInv
    | ckrange | ckvfy => exact fletcher_nonzeroBytes _
    | _ => cases hw
  | false => rwa [State.CkInv, hu.keepsUnnamed.ck hw]

theorem reset_ck_nonzeroBytes : NonzeroBytes 0xFFFF#16 := by unfold NonzeroBytes; decide

theorem State.afterReset_accInv_ckInv (s : State) : s.afterReset.AccInv ∧ s.afterReset.CkInv :=
  ⟨State.accInv_of_chunkStart rfl seed_bounded, reset_ck_nonzeroBytes⟩

/-- R28 needs nothing of the buffer, of `ST` or of `CFG`. -/
theorem accInv_ckInv_closed : StepClosed fun s => s.AccInv ∧ s.CkInv where
  pending _ h := h
  pc _ h := h
  effect hu h := ⟨hu.accInv h.1, hu.ckInv h.1 h.2⟩
  err _ h := h
  fatal _ h := h
  hostByte _ _ h := h
  reset _ := State.afterReset_accInv_ckInv _

theorem State.BufInv.memWrite (h : s.BufInv) {a : Nat} {bs : List Byte} (hb : a + bs.length ≤ s.bufSize) :
    (s.memWrite a bs).BufInv := by
  obtain ⟨hwf, hin, hsize⟩ := h
  rw [State.BufInv, State.memWrite_bufSize]
  exact ⟨s.memWrite_wf a bs hwf, s.memWrite_inside a bs hin hb, hsize⟩

theorem Effect.bufInv (hu : Effect s i u) (h : s.BufInv) : u.BufInv := by
  cases hw : writesBuf i with
  | true =>
    obtain ⟨a, bs, hb, rfl⟩ := hu.eq_memWrite hw
    exact h.memWrite hb
  | false => rwa [State.BufInv, hu.keepsUnnamed.buf hw, hu.keepsUnnamed.bufSize]

theorem bufInv_closed : StepClosed State.BufInv where
  pending _ h := h
  pc _ h := h
  effect := Effect.bufInv
  err _ h := h
  fatal _ h := h
  hostByte b ha h := h.memWrite (bs := [b]) ha
  reset h := h

theorem State.stInv_of_zero (h : s.st = 0x00#8) : s.StInv := by
  rw [State.StInv, h]
  decide

/-- `ERR` is written alone, FATAL and FCAUSE together. -/
theorem stInv_closed : StepClosed State.StInv where
  pending _ h := h
  pc _ h := h
  effect hu h := by rwa [State.StInv, hu.st_eq]
  err he h := by
    rw [State.StInv, State.setErr_st, stErr_stWithErr, stFatal_stWithErr, stCause_stWithErr]
    exact ⟨he, h.2⟩
  fatal hc h := by
    rw [State.StInv, State.raiseFatal_st, stErr_stWithFatal, stFatal_stWithFatal, stCause_stWithFatal]
    exact ⟨h.1, .inr ⟨rfl, hc.imp (congrArg FatalCause.code) (congrArg FatalCause.code)⟩⟩
  hostByte _ _ h := h
  reset _ := State.stInv_of_zero rfl

/-- `CFG` as it reads has only the strap in it (R24). -/
theorem strap_reserved (b : Bool) : (0#7 ++ BitVec.ofBool b).extractLsb' 1 7 = 0#7 := BitVec.extractLsb'_append_eq_left

theorem cfgInv_closed : StepClosed State.CfgInv where
  pending _ h := h
  pc _ h := h
  effect hu h := by rwa [State.CfgInv, hu.keepsUnnamed.cfg]
  err _ h := h
  fatal _ h := h
  hostByte _ _ h := h
  reset _ := strap_reserved _

/-- `CFG` read through the strap is `CFG` with its reserved bits cleared. -/
theorem State.readCfg_eq_mask (s : State) : s.readCfg = s.cfg &&& 1#8 := by
  unfold State.readCfg State.hostBE
  generalize s.cfg = c
  revert c
  decide

@[simp] theorem State.afterReset_hostBE (s : State) : s.afterReset.hostBE = s.hostBE := by
  rw [State.hostBE, State.afterReset_cfg, State.readCfg_eq_mask]
  simp [State.hostBE]

theorem hostBE_bufSize_closed (be : Bool) (n : Nat) : StepClosed fun t => t.hostBE = be ∧ t.bufSize = n where
  pending _ h := h
  pc _ h := h
  effect hu h := by rwa [State.hostBE_congr hu.keepsUnnamed.cfg, hu.keepsUnnamed.bufSize]
  err _ h := h
  fatal _ h := h
  hostByte _ _ h := h
  reset h := by rwa [State.afterReset_hostBE]

end Invariants

/-! ### The obligations of the family -/

/-- Settles O38: each invariant is kept by each thing a step can do. -/
theorem everyStepKeepsInvariants : Obligations.EveryStepKeepsInvariants := by
  intro s t h hstep
  obtain ⟨hacc, hck⟩ := accInv_ckInv_closed.step ⟨h.acc, h.ck⟩ hstep
  exact ⟨bufInv_closed.step h.buf hstep, hacc, hck, stInv_closed.step h.st hstep, cfgInv_closed.step h.cfg hstep⟩

/-- Settles O31, by the effect of each command. -/
theorem onlyNamedWritersChangeRegisters : Obligations.OnlyNamedWritersChangeRegisters := by
  intro i s t h
  obtain ⟨hd, hoff, hlen, hacc, hck, hbuf, hcfg, hsize, hpending, hpc⟩ := exec_keepsUnnamed h
  exact ⟨hd, hoff, hlen, hacc, hck, hbuf, hcfg, hsize, hpending, hpc⟩

/-- Settles O33: no effect of a command and nothing the host does changes either. -/
theorem strapAndSizeAreConstant : Obligations.StrapAndSizeAreConstant :=
  fun s _ hstep => (hostBE_bufSize_closed s.hostBE s.bufSize).step ⟨rfl, rfl⟩ hstep

/-- Settles O34: while FATAL is 1 commands and illegal words are discarded, and the host's writes go to `BUF` alone. -/
theorem onlyResetClearsFatal : Obligations.OnlyResetClearsFatal := by
  intro s t hf hnext hstep
  obtain ⟨-, rfl⟩ | ⟨_, q, i, -, -, hexec⟩ | ⟨_, q, _, -, -, hill⟩ | ⟨a, b, q, -, -, rfl⟩ | ⟨q, hp, -⟩ :=
    step_cases hstep
  · rfl
  · obtain ⟨-, rfl⟩ | ⟨hrunning, -⟩ := exec_cases hexec
    · rfl
    · exact absurd hf (ne_true_of_eq_false hrunning)
  · obtain ⟨-, rfl⟩ | ⟨hrunning, -⟩ := issueIllegal_cases hill
    · rfl
    · exact absurd hf (ne_true_of_eq_false hrunning)
  · rfl
  · exact absurd (by rw [hp]; rfl) hnext

/-- Settles O39: R28's bounds hold after a reset and every step keeps them. -/
theorem accumulatorsNeverWrap : Obligations.AccumulatorsNeverWrap := by
  intro s t n hrun
  obtain ⟨hacc, hck⟩ := accInv_ckInv_closed.run s.afterReset_accInv_ckInv n hrun
  have hnext := hacc.no_wrap
  obtain ⟨hcnt, hpos1, h1, hpos2, h2⟩ := hacc
  refine ⟨hcnt, fun h0 => ?_, ⟨hpos1, h1, hpos2, ?_⟩, fun b => ?_, BitVec.toNat_pos_of_ne_zero hck.1,
    BitVec.toNat_pos_of_ne_zero hck.2⟩
  · simp only [h0, BitVec.toNat_zero] at h1 h2
    omega
  · exact le_trans (Nat.le_add_right _ _) (hnext 0#8).2
  · have := hnext b
    omega

/-- Settles O24: the placed word is the head of the host's list. -/
theorem placedWordRunsNext : Obligations.PlacedWordRunsNext := by
  intro s c i hd
  have hplaced : s.withFetchWord 32 c.toNat = s.present c := by
    rw [State.withFetchWord, Nat.mod_eq_of_lt c.isLt, BitVec.ofNat_toNat, BitVec.setWidth_eq]
  rw [hplaced, step_command (s.present_pending c) hd]
  rfl

/-- Settles O35: the strap, which reset shows in `CFG`, is a mask of `CFG`. -/
theorem resetGivesResetValues : Obligations.ResetGivesResetValues := by
  intro s q h
  rw [step_reset h, State.afterReset, State.readCfg_eq_mask]
  rfl

/-- Settles O37, with the strap and the size whatever they are. -/
theorem invariantsHoldAtReset : Obligations.InvariantsHoldAtReset where
  buf := ⟨rfl, nofun, Nat.le_of_lt_succ Config.bufSize.isLt⟩
  acc := State.accInv_of_chunkStart rfl seed_bounded
  ck := reset_ck_nonzeroBytes
  st := State.stInv_of_zero rfl
  cfg := strap_reserved _

end Sys2Proof.Machine

/-! PROOFS of the family spec/20_memory.md: the bounds test, which bytes of the buffer a command and the host change,
wire accesses on either host, and the frame: its layout and its seal. -/

namespace Sys2Proof.Machine

open Sys2Proof.Claims

section Buffer

variable {s t u : State} {i : Instr} {e : Ending}

/-! ### A command whose tests pass -/

/-- In a running state a command other than CKVFY, which may still report a mismatch, succeeds with its effect. -/
theorem Effect.exec_eq (hu : Effect s i u) (hf : s.isFatal = false) (hi : i ≠ .ckvfy) :
    exec i s = .next (u.setErr 0#4) := by
  suffices hissue : exec i s = s.issue (.done u) from hissue.trans (State.issue_running hf _)
  cases hu with
  | nop | setoff | setlen | setd | ckinit | ckb | ckfin => rfl
  | ckabs hb | ckrange hb | ckput hb => exact congrArg s.issue (State.inBounds_pos hb _)
  | bswap hv | norm hv => exact congrArg s.issue (withWidth_legal hv _)
  | normm hv hb | ldn hv hb | stn hv hb | ldf hv hb | stf hv hb =>
    exact congrArg s.issue ((withWidth_legal hv _).trans (State.inBounds_pos hb _))
  | ckvfy => exact absurd rfl hi

/-- The body of a command leaves FATAL alone, and so does what is written to `ERR` after it. -/
theorem Effect.running (hu : Effect s i u) (hf : s.isFatal = false) (e : BitVec 4) : (u.setErr e).isFatal = false := by
  rw [State.isFatal, State.setErr_st, stFatal_stWithErr, hu.st_eq]
  exact hf

/-- A command that succeeds, at the head of a list, is one step of the list. -/
theorem Effect.runAll_cons (hu : Effect s i u) (hf : s.isFatal = false) (hi : i ≠ .ckvfy) (is : List Instr) :
    runAll (i :: is) s = runAll is (u.setErr 0#4) := by
  rw [runAll, hu.exec_eq hf hi]

/-! ### The bounds test (R37) -/

/-- A command has an effect only when the bytes it needs exist. -/
theorem Effect.needs_inside {n : Nat} (hu : Effect s i u) (hn : needs s i = some n) :
    s.off.toNat + n ≤ s.bufSize := by
  cases hu with
  | ckabs hb | ckrange hb | ckput hb | ckvfy hb => exact Option.some.inj hn ▸ hb
  | normm hv hb | ldn hv hb | stn hv hb | ldf hv hb | stf hv hb =>
    rw [Width_ofField_bytes hv] at hb
    exact Option.some.inj hn ▸ hb
  | _ => cases hn

/-- R37: when bytes a command needs do not exist, nothing but `ERR` changes. -/
theorem exec_bufferTooSmall {n : Nat} (hf : s.isFatal = false) (hw : i.widthLegal = true) (hn : needs s i = some n)
    (hb : s.bufSize < s.off.toNat + n) : exec i s = .next (s.setSt ((s.st &&& 0xF0#8) ||| 1#8)) := by
  obtain ⟨e, he, hends⟩ := exec_eq_issue i s
  rw [he]
  cases hends with
  | done hu _ => exact absurd (hu.needs_inside hn) (Nat.not_le.2 hb)
  | mismatch hu _ _ => exact absurd (hu.needs_inside hn) (Nat.not_le.2 hb)
  | tooSmall _ _ => exact State.issue_bufferTooSmall hf s
  | badWidth hbad => exact absurd hw (ne_true_of_eq_false hbad)

/-- When they all exist, a command succeeds, or is a CKVFY that reports a mismatch. -/
theorem exec_of_needs_inside (hf : s.isFatal = false) (hw : i.widthLegal = true)
    (hb : ∀ n, needs s i = some n → s.off.toNat + n ≤ s.bufSize) :
    ∃ t, exec i s = .next t ∧ t.isFatal = false ∧ (stErr t.st = 0#4 ∨ (stErr t.st = 2#4 ∧ i = .ckvfy)) := by
  obtain ⟨e, he, hends⟩ := exec_eq_issue i s
  refine ⟨s.conclude e, he.trans (State.issue_running hf e), ?_⟩
  cases hends with
  | done hu _ => exact ⟨hu.running hf _, .inl (stErr_stWithErr _ _)⟩
  | mismatch hu hi _ => exact ⟨hu.running hf _, .inr ⟨stErr_stWithErr _ _, hi⟩⟩
  | tooSmall hn hsmall => exact absurd (hb _ hn) (Nat.not_le.2 hsmall)
  | badWidth hbad => exact absurd hw (ne_true_of_eq_false hbad)

/-! ### Which bytes a command changes (R31) -/

/-- The bytes of `BUF` that R31 says `i` writes. -/
def NamedByte (s : State) (i : Instr) (a : Nat) : Prop :=
  (i = .ckput ∧ (a = s.off.toNat + s.len.toNat ∨ a = s.off.toNat + s.len.toNat + 1)) ∨
  (∃ w, (i = .stn w ∨ i = .stf w ∨ (i = .normm w ∧ s.cfg.getLsbD 0 = true)) ∧
    s.off.toNat ≤ a ∧ a < s.off.toNat + w.toNat)

/-- A byte that a range write changes lies in the range. -/
theorem State.mem_range_of_memWrite_changes {a x : Nat} {bs : List Byte}
    (h : (s.memWrite a bs).bufByte x ≠ s.bufByte x) : a ≤ x ∧ x < a + bs.length := by
  rw [State.bufByte_memWrite] at h
  by_cases ha : a ≤ x
  · refine ⟨ha, Nat.lt_of_not_le fun hx => h ?_⟩
    rw [if_pos ha, List.getElem?_eq_none (by omega)]
    rfl
  · exact absurd (if_neg ha) h

/-- A byte that a native write changes lies in its `w` bytes; a wire write is one. -/
theorem State.mem_range_of_nativeWrite_changes {a w v x : Nat}
    (h : (s.nativeWrite a w v).bufByte x ≠ s.bufByte x) : a ≤ x ∧ x < a + w := by
  obtain ⟨bs, rfl, heq⟩ := s.nativeWrite_is_memWrite a w v
  exact State.mem_range_of_memWrite_changes (heq ▸ h)

/-- A byte that normalizing a field changes lies in the field, and the host is big-endian (R84). -/
theorem State.mem_range_of_normalizeField_changes {a w x : Nat}
    (h : (s.normalizeField a w).bufByte x ≠ s.bufByte x) : s.hostBE = true ∧ a ≤ x ∧ x < a + w := by
  rw [State.normalizeField] at h
  split_ifs at h with hbe
  · have hrange := State.mem_range_of_memWrite_changes h
    rw [List.length_reverse, State.memRead_length] at hrange
    exact ⟨hbe, hrange⟩
  · exact absurd rfl h

/-- What a command's effect changes of `BUF` lies inside it and is named for the command. -/
theorem Effect.changes_named {a : Nat} (hu : Effect s i u) (h : u.bufByte a ≠ s.bufByte a) :
    a < s.bufSize ∧ NamedByte s i a := by
  cases hw : writesBuf i with
  | false => exact absurd (State.bufByte_congr (hu.keepsUnnamed.buf hw) a) h
  | true =>
    cases hu with
    | ckput hb =>
      obtain ⟨hle, hlt⟩ := State.mem_range_of_nativeWrite_changes h
      simp only [State.trailerAt, Config.trailerBytes] at hle hlt hb
      exact ⟨by omega, .inl ⟨rfl, by omega⟩⟩
    | @stn w _ hv hb =>
      obtain ⟨hle, hlt⟩ := State.mem_range_of_nativeWrite_changes h
      exact ⟨by omega, .inr ⟨w, .inl rfl, hle, Width_ofField_bytes hv ▸ hlt⟩⟩
    | @stf w _ hv hb =>
      obtain ⟨hle, hlt⟩ := State.mem_range_of_nativeWrite_changes h
      exact ⟨by omega, .inr ⟨w, .inr (.inl rfl), hle, Width_ofField_bytes hv ▸ hlt⟩⟩
    | @normm w _ hv hb =>
      obtain ⟨hbe, hle, hlt⟩ := State.mem_range_of_normalizeField_changes h
      exact ⟨by omega, .inr ⟨w, .inr (.inr ⟨rfl, hbe⟩), hle, Width_ofField_bytes hv ▸ hlt⟩⟩
    | _ => cases hw

/-- R31, the writes: a byte that a command changes lies inside `BUF` and is named for the command. -/
theorem exec_changes_named {a : Nat} (h : exec i s = .next t) (hne : t.bufByte a ≠ s.bufByte a) :
    a < s.bufSize ∧ NamedByte s i a := by
  obtain ⟨-, rfl⟩ | ⟨-, e, hends, rfl⟩ := exec_cases h
  · exact absurd rfl hne
  · cases hends with
    | done hu _ => exact hu.changes_named hne
    | mismatch hu _ _ => exact hu.changes_named hne
    | tooSmall _ _ => exact absurd rfl hne
    | badWidth _ => exact absurd rfl hne

/-! ### Commands without access to the buffer (R31) -/

/-- The ending whose state is changed by `f`. -/
def Ending.map (f : State → State) : Ending → Ending
  | .done t => .done (f t)
  | .err e t => .err e (f t)
  | .fatal c => .fatal c

/-- The width test fails or passes whatever the state (R81). -/
theorem withWidth_map {f : State → State} {w : BitVec 8} {body body' : Width → Ending}
    (h : ∀ v, body' v = (body v).map f) : withWidth w body' = (withWidth w body).map f := by
  obtain ⟨hw, heq⟩ | ⟨v, hv, heq⟩ := withWidth_cases w body
  · rw [heq, withWidth_illegal hw, Ending.map]
  · rw [heq, withWidth_legal hv, h]

/-- The wrapper of R109 neither reads nor writes `BUF`. -/
theorem State.issue_setBuf (s : State) (e : Ending) (m : Memory) :
    ∃ t, s.issue e = .next t ∧ (s.setBuf m).issue (e.map (·.setBuf m)) = .next (t.setBuf m) := by
  have hst : (s.setBuf m).isFatal = s.isFatal := rfl
  cases hf : s.isFatal with
  | true => exact ⟨s, State.issue_fatal hf e, State.issue_fatal (hst.trans hf) _⟩
  | false =>
    refine ⟨s.conclude e, State.issue_running hf e, (State.issue_running (hst.trans hf) _).trans ?_⟩
    cases e <;> rfl

theorem State.absorb_of_full (h : s.cnt + 1#5 = BitVec.ofNat 5 Config.chunkMax) (b : Byte) :
    s.absorb b = s.setAcc ((Sums.mk s.a1 s.a2).addByte b).fold.a1 ((Sums.mk s.a1 s.a2).addByte b).fold.a2 0#5 :=
  if_pos h

theorem State.absorb_of_not_full (h : s.cnt + 1#5 ≠ BitVec.ofNat 5 Config.chunkMax) (b : Byte) :
    s.absorb b = s.setAcc ((Sums.mk s.a1 s.a2).addByte b).a1 ((Sums.mk s.a1 s.a2).addByte b).a2 (s.cnt + 1#5) :=
  if_neg h

theorem State.absorb_setBuf (s : State) (m : Memory) (b : Byte) : (s.setBuf m).absorb b = (s.absorb b).setBuf m := by
  by_cases hfull : s.cnt + 1#5 = BitVec.ofNat 5 Config.chunkMax
  · rw [State.absorb_of_full hfull, State.absorb_of_full (s := s.setBuf m) hfull]
    rfl
  · rw [State.absorb_of_not_full hfull, State.absorb_of_not_full (s := s.setBuf m) hfull]
    rfl

/-- A command that R31 gives no access to `BUF` ends alike whatever `BUF` holds. -/
theorem exec_setBuf (hn : needs s i = none) (m : Memory) :
    ∃ e, exec i s = s.issue e ∧ exec i (s.setBuf m) = (s.setBuf m).issue (e.map (·.setBuf m)) := by
  cases i with
  | nop | setoff | setlen | setd | ckinit | ckfin => exact ⟨_, rfl, rfl⟩
  | ckb b => exact ⟨_, rfl, congrArg (fun t => (s.setBuf m).issue (.done t)) (s.absorb_setBuf m b)⟩
  | bswap | norm => exact ⟨_, rfl, congrArg (s.setBuf m).issue (withWidth_map fun _ => rfl)⟩
  | _ => cases hn

end Buffer

/-! ### Wire accesses (R35) -/

section Wire

/-- Swapping the big-endian number of some bytes gives their little-endian number. -/
theorem bswapNat_beNat (bs : List Byte) : bswapNat bs.length (beNat bs) = leNat bs := by
  rw [bswapNat, beNat, ← List.length_reverse, bytesLe_leNat, List.reverse_reverse]

/-- The big-endian bytes of a swapped number are its little-endian bytes. -/
theorem bytesBe_bswapNat (v n : Nat) : bytesBe (bswapNat n v) n = bytesLe v n := by
  have hbytes := bytesLe_leNat (bytesLe v n).reverse
  rw [List.length_reverse, bytesLe_length] at hbytes
  rw [bytesBe, bswapNat, hbytes, List.reverse_reverse]

theorem State.wireRead_eq_leNat (s : State) (a w : Nat) : s.wireRead a w = leNat (s.memRead a w) := by
  have hswap := bswapNat_beNat (s.memRead a w)
  rw [State.memRead_length] at hswap
  rw [State.wireRead, State.nativeRead, normalizeNat]
  split_ifs
  · exact hswap
  · rfl

theorem State.wireWrite_eq_memWrite (s : State) (a w v : Nat) : s.wireWrite a w v = s.memWrite a (bytesLe v w) := by
  rw [State.wireWrite, State.nativeWrite, normalizeNat]
  split_ifs
  · rw [bytesBe_bswapNat]
  · rfl

/-- A 1-byte wire read is the byte. -/
theorem State.wireRead_one (s : State) (a : Nat) : s.wireRead a 1 = (s.bufByte a).toNat := s.wireRead_eq_leNat a 1

/-- What a wire write leaves at each address. -/
theorem State.bufByte_wireWrite (s : State) (a w v x : Nat) :
    (s.wireWrite a w v).bufByte x =
      if a ≤ x ∧ x < a + w then BitVec.ofNat 8 (v / 256 ^ (x - a)) else s.bufByte x := by
  rw [State.wireWrite_eq_memWrite, State.bufByte_memWrite]
  by_cases hle : a ≤ x
  · by_cases hlt : x < a + w
    · rw [if_pos hle, if_pos ⟨hle, hlt⟩, bytesLe_getElem? v w (x - a) (by omega), Option.getD_some]
    · rw [if_pos hle, if_neg (by omega), List.getElem?_eq_none (by rw [bytesLe_length]; omega), Option.getD_none]
  · rw [if_neg hle, if_neg (by omega)]

/-- Byte `i` of a register, as a number's and as the register's bits. -/
theorem ofNat_div_pow_eq_extractLsb' {n : Nat} (v : BitVec n) (i : Nat) :
    BitVec.ofNat 8 (v.toNat / 256 ^ i) = v.extractLsb' (8 * i) 8 := by
  rw [BitVec.extractLsb', Nat.shiftRight_eq_div_pow, Nat.pow_mul]

/-- What CKPUT does to the buffer: `CK` as the wire-order trailer after the range (R72). -/
def State.putTrailer (s : State) : State := s.wireWrite s.trailerAt Config.trailerBytes s.ck.toNat

@[simp] theorem State.putTrailer_ck (s : State) : s.putTrailer.ck = s.ck := by
  rw [State.putTrailer, State.wireWrite_eq_memWrite, State.memWrite_ck]

/-- The low byte of `CK` comes first, then the high byte (R33). -/
theorem State.bufByte_putTrailer (s : State) (a : Nat) :
    s.putTrailer.bufByte a =
      if a = s.trailerAt then s.ck.extractLsb' 0 8
      else if a = s.trailerAt + 1 then s.ck.extractLsb' 8 8 else s.bufByte a := by
  rw [State.putTrailer, State.bufByte_wireWrite, ofNat_div_pow_eq_extractLsb', Config.trailerBytes]
  by_cases hlow : a = s.trailerAt
  · rw [if_pos (by omega), if_pos hlow, hlow, Nat.sub_self]
  · by_cases hhigh : a = s.trailerAt + 1
    · rw [if_pos (by omega), if_neg hlow, if_pos hhigh, hhigh, Nat.add_sub_cancel_left]
    · rw [if_neg (by omega), if_neg hlow, if_neg hhigh]

end Wire

/-! ### The layout of a frame (R40) -/

section Frame

/-- Where a region of R40's table begins and where it ends, counted from the frame's first byte; the partner identifier
of a response is empty. -/
def FrameKind.bounds (k : FrameKind) (p : Nat) : Region → Nat × Nat
  | .version => (0, 1)
  | .reserved => (1, 2)
  | .payloadLen => (2, 4)
  | .partner => (4, k.ivAt 0)
  | .iv => (k.ivAt 0, k.headerBytes)
  | .payload => (k.headerBytes, k.coveredBytes p)
  | .trailer => (k.coveredBytes p, k.frameBytes p)

/-- The region in which the byte `o` bytes after the frame's first lies. -/
def FrameKind.regionAt (k : FrameKind) (p o : Nat) : Region :=
  if o < 1 then .version
  else if o < 2 then .reserved
  else if o < 4 then .payloadLen
  else if o < k.ivAt 0 then .partner
  else if o < k.headerBytes then .iv
  else if o < k.coveredBytes p then .payload
  else .trailer

/-- The rows of R40's table by their bounds. -/
theorem FrameKind.in_region_iff_bounds (k : FrameKind) (base p a : Nat) (r : Region) :
    (∃ x, k.region base p r = some x ∧ x.1 ≤ a ∧ a < x.1 + x.2) ↔
      base + (k.bounds p r).1 ≤ a ∧ a < base + (k.bounds p r).2 := by
  cases k <;> cases r <;>
    simp [FrameKind.region, FrameKind.bounds, FrameKind.partnerAt, FrameKind.ivAt, FrameKind.payloadAt,
      FrameKind.trailerAt, FrameKind.frameBytes, FrameKind.coveredBytes, FrameKind.headerBytes, versionAt, reservedAt,
      payloadLenAt, Config.hdrReq, Config.hdrRsp, Config.trailerBytes, Nat.add_assoc]

/-- The initialization vector begins at the partner identifier's place or after it, and ends with the header. -/
theorem FrameKind.ivAt_in_header (k : FrameKind) : 4 ≤ k.ivAt 0 ∧ k.ivAt 0 ≤ k.headerBytes := by
  cases k <;> decide

theorem FrameKind.bounds_le_frameBytes (k : FrameKind) (p : Nat) (r : Region) :
    (k.bounds p r).2 ≤ k.frameBytes p := by
  have hiv := k.ivAt_in_header
  cases r <;> simp only [FrameKind.bounds, FrameKind.frameBytes, FrameKind.coveredBytes] <;> omega

/-- The bounds follow each other without gap or overlap, so they say where each byte lies. -/
theorem FrameKind.regionAt_eq_iff_bounds {k : FrameKind} {p o : Nat} (ho : o < k.frameBytes p) (r : Region) :
    k.regionAt p o = r ↔ (k.bounds p r).1 ≤ o ∧ o < (k.bounds p r).2 := by
  have hiv := k.ivAt_in_header
  have hcovered : k.headerBytes ≤ k.coveredBytes p := Nat.le_add_right _ _
  cases r <;> simp only [FrameKind.regionAt, FrameKind.bounds] <;> split_ifs <;> simp <;> omega

/-- A region holds exactly the bytes of the frame that `regionAt` puts there. -/
theorem FrameKind.in_region_iff_regionAt (k : FrameKind) (base p a : Nat) (r : Region) :
    (∃ x, k.region base p r = some x ∧ x.1 ≤ a ∧ a < x.1 + x.2) ↔
      (base ≤ a ∧ a < base + k.frameBytes p) ∧ k.regionAt p (a - base) = r := by
  have hend := k.bounds_le_frameBytes p r
  rw [FrameKind.in_region_iff_bounds]
  constructor
  · rintro ⟨hlo, hhi⟩
    exact ⟨by omega, (FrameKind.regionAt_eq_iff_bounds (by omega) r).2 (by omega)⟩
  · rintro ⟨hin, hr⟩
    have hbounds := (FrameKind.regionAt_eq_iff_bounds (by omega) r).1 hr
    omega

/-! ### Sealing a frame (R41) -/

variable {s : State} {n : Nat} {i : Instr} {is : List Instr}

/-- A number of a source line that is accepted stands in its field unchanged (R57). -/
theorem toNat_ofNat_of_operandFits {bits : Nat} (h : operandFits bits n = true) : (BitVec.ofNat bits n).toNat = n := by
  rw [BitVec.toNat_ofNat, Nat.mod_eq_of_lt (of_decide_eq_true h)]

theorem asmSetoff_eq_some (h : asmSetoff n = some i) : ∃ o : Offset, i = .setoff o ∧ o.toNat = n := by
  obtain ⟨hfits, ⟨⟩⟩ := Option.ite_none_right_eq_some.1 h
  exact ⟨_, rfl, toNat_ofNat_of_operandFits hfits⟩

theorem asmSetlen_eq_some (h : asmSetlen n = some i) : ∃ l : BitVec 24, i = .setlen l ∧ l.toNat = n := by
  obtain ⟨hfits, ⟨⟩⟩ := Option.ite_none_right_eq_some.1 h
  exact ⟨_, rfl, toNat_ofNat_of_operandFits hfits⟩

/-- The range commands of R58 begin with the two commands that set the range. -/
theorem withRange_eq_some {off len : Nat} {rest : List Instr} (h : withRange off len rest = some is) :
    ∃ o l : BitVec 24, is = .setoff o :: .setlen l :: rest ∧ o.toNat = off ∧ l.toNat = len := by
  unfold withRange at h
  split at h
  next i j hi hj =>
    obtain ⟨o, rfl, ho⟩ := asmSetoff_eq_some hi
    obtain ⟨l, rfl, hl⟩ := asmSetlen_eq_some hj
    exact ⟨o, l, (Option.some.inj h).symm, ho, hl⟩
  next => cases h

/-- `SETOFF o` and then LDF leave the little-endian number of the bytes from `o` in `D` (R87). -/
theorem runAll_setoff_ldf {w : BitVec 8} {v : Width} (hf : s.isFatal = false) (hv : Width.ofField w = some v)
    (o : Offset) (hb : o.toNat + v.bytes ≤ s.bufSize) :
    ∃ t, runAll [.setoff o, .ldf w] s = some t ∧ stErr t.st = 0#4 ∧
      t.d.toNat = leNat (s.memRead o.toNat v.bytes) := by
  have hoff : Effect s (.setoff o) (s.setOff o) := .setoff o
  have hldf : Effect ((s.setOff o).setErr 0#4) (.ldf w) _ := .ldf hv hb
  have hrun := (hoff.runAll_cons hf nofun _).trans (hldf.runAll_cons (hoff.running hf _) nofun [])
  have hbuf : ((s.setOff o).setErr 0#4).buf = s.buf := rfl
  have hlt : leNat (s.memRead o.toNat v.bytes) < 2 ^ 64 :=
    calc leNat (s.memRead o.toNat v.bytes)
      _ < 256 ^ (s.memRead o.toNat v.bytes).length := leNat_lt _
      _ = 256 ^ v.bytes := by rw [State.memRead_length]
      _ ≤ 256 ^ 8 := Nat.pow_le_pow_right (by decide) (Width_bytes_pos_le v).2
  refine ⟨_, hrun, stErr_stWithErr _ _, ?_⟩
  rw [State.setErr_d, State.loadD, State.setD_d, State.wireRead_eq_leNat, BitVec.toNat_ofNat]
  exact (congrArg (leNat · % 2 ^ 64) (State.memRead_congr hbuf _ _)).trans (Nat.mod_eq_of_lt hlt)

/-- `SETOFF o; SETLEN l` at the head of a list. -/
def State.setRange (s : State) (o l : BitVec 24) : State := (((s.setOff o).setErr 0#4).setLen l).setErr 0#4

theorem runAll_setRange (hf : s.isFatal = false) (o l : BitVec 24) (is : List Instr) :
    runAll (.setoff o :: .setlen l :: is) s = runAll is (s.setRange o l) := by
  have hoff : Effect s (.setoff o) (s.setOff o) := .setoff o
  have hlen : Effect ((s.setOff o).setErr 0#4) (.setlen l) _ := .setlen l
  rw [hoff.runAll_cons hf nofun, hlen.runAll_cons (hoff.running hf _) nofun, State.setRange]

/-- CKRANGE and then CKPUT, where the range has room for its trailer. -/
theorem runAll_ckrange_ckput (hf : s.isFatal = false) (hb : s.trailerAt + 2 ≤ s.bufSize) :
    runAll [.ckrange, .ckput] s = some ((s.checksumRange.setErr 0#4).putTrailer.setErr 0#4) := by
  have hsum : Effect s .ckrange s.checksumRange := .ckrange (Nat.le_of_add_right_le hb)
  have hput : Effect (s.checksumRange.setErr 0#4) .ckput (s.checksumRange.setErr 0#4).putTrailer := .ckput hb
  rw [hsum.runAll_cons hf nofun, hput.runAll_cons (hsum.running hf _) nofun, runAll]

/-- SEAL of a range with room for its trailer: the checksum in `CK` and, low byte first, right after the range (R41). -/
theorem runAll_seal (hf : s.isFatal = false) (o l : BitVec 24) (hb : o.toNat + l.toNat + 2 ≤ s.bufSize) :
    ∃ t, runAll [.setoff o, .setlen l, .ckrange, .ckput] s = some t ∧ stErr t.st = 0#4 ∧
      t.ck = fletcher (s.memRead o.toNat l.toNat) ∧
      ∀ a, t.bufByte a =
        if a = o.toNat + l.toNat then t.ck.extractLsb' 0 8
        else if a = o.toNat + l.toNat + 1 then t.ck.extractLsb' 8 8 else s.bufByte a := by
  have hrunning : (s.setRange o l).isFatal = false := by
    rwa [State.isFatal, State.setRange, State.setErr_st, State.setLen_st, State.setErr_st, stFatal_stWithErr,
      stFatal_stWithErr]
  have hrun := (runAll_setRange hf o l _).trans (runAll_ckrange_ckput hrunning hb)
  have hbuf : (s.setRange o l).buf = s.buf := rfl
  refine ⟨_, hrun, stErr_stWithErr _ _, ?_, fun a => ?_⟩
  · rw [State.setErr_ck, State.putTrailer_ck]
    exact congrArg fletcher (State.memRead_congr hbuf _ _)
  · rw [State.setErr_ck, State.putTrailer_ck]
    exact State.bufByte_putTrailer _ a

end Frame

/-! ### The obligations of the family -/

/-- Settles O28: a command has an effect only when the bytes it needs exist. -/
theorem boundsTestGuardsBuffer : Obligations.BoundsTestGuardsBuffer := by
  intro i s n hf hw hn
  refine ⟨exec_bufferTooSmall hf hw hn, fun hb => ?_⟩
  obtain ⟨t, hexec, ht, herr⟩ := exec_of_needs_inside hf hw fun m hm => Option.some.inj (hn.symm.trans hm) ▸ hb
  refine ⟨t, hexec, fun hsmall => ?_, ht⟩
  obtain h0 | ⟨h2, -⟩ := herr
  · exact absurd (hsmall.symm.trans h0) (by decide)
  · exact absurd (hsmall.symm.trans h2) (by decide)

/-- Settles O32: the writes by each effect; a command without access to `BUF` ends alike whatever it holds. -/
theorem onlyNamedBytesAreTouched : Obligations.OnlyNamedBytesAreTouched := by
  refine ⟨fun i s t a => exec_changes_named, fun i s m hn => ?_⟩
  obtain ⟨e, hexec, hexec'⟩ := exec_setBuf hn m
  obtain ⟨t, ht, ht'⟩ := s.issue_setBuf e m
  exact ⟨t, hexec.trans ht, hexec'.trans ht'⟩

/-- Settles O36, by the step that takes the host's write. -/
theorem hostWriteChangesOneByte : Obligations.HostWriteChangesOneByte := by
  intro s a b q hp
  rw [step_writeByte hp, State.hostWrite]
  refine ⟨fun ha => ⟨_, if_pos ha, rfl, fun x => ?_⟩, fun ha => if_neg (Nat.not_lt.2 ha)⟩
  rw [State.bufByte_setByte]
  exact if_congr eq_comm rfl rfl

/-- Settles O48: on a big-endian host the native order and the normalization undo each other. -/
theorem wireAccessIsLittleEndian : Obligations.WireAccessIsLittleEndian := by
  intro s a w v
  refine ⟨s.wireRead_eq_leNat a w, s.wireWrite_eq_memWrite a w v, fun hv => ?_⟩
  rw [State.wireRead_one, State.wireRead_one, State.bufByte_wireWrite, State.bufByte_wireWrite, if_pos (by omega),
    if_pos (by omega), Nat.sub_self, Nat.add_sub_cancel_left, BitVec.toNat_ofNat, BitVec.toNat_ofNat]
  omega

/-- Settles O57: a byte lies in the region where `regionAt` puts it; LDF and SEAL are runs of two and four commands. -/
theorem frameIsLaidOutAndSealed : Obligations.FrameIsLaidOutAndSealed := by
  refine ⟨fun k base p a => ⟨?_, fun r r' x x' hx hx' hlo hhi hlo' hhi' => ?_⟩, fun s base i hf hi hb => ?_,
    fun k s base is hf his hb => ?_⟩
  · constructor
    · exact fun ha => ⟨_, (k.in_region_iff_regionAt base p a _).2 ⟨ha, rfl⟩⟩
    · rintro ⟨r, hr⟩
      exact ((k.in_region_iff_regionAt base p a r).1 hr).1
  · have hr := ((k.in_region_iff_regionAt base p a r).1 ⟨x, hx, hlo, hhi⟩).2
    have hr' := ((k.in_region_iff_regionAt base p a r').1 ⟨x', hx', hlo', hhi'⟩).2
    exact hr.symm.trans hr'
  · obtain ⟨o, rfl, ho⟩ := asmSetoff_eq_some hi
    have hfield : o.toNat + Width.w2.bytes ≤ s.bufSize := ho ▸ hb
    rw [State.payloadBytes, ← ho]
    exact runAll_setoff_ldf hf rfl o hfield
  · obtain ⟨o, l, rfl, rfl, hl⟩ := withRange_eq_some his
    have hroom : o.toNat + l.toNat + 2 ≤ s.bufSize := hl ▸ hb
    have htrailer : k.trailerAt o.toNat (s.payloadBytes o.toNat) = o.toNat + l.toNat := congrArg (o.toNat + ·) hl.symm
    rw [← hl, htrailer]
    exact runAll_seal hf o l hroom

end Sys2Proof.Machine

/-! PROOFS of the family spec/30_encoding.md: what a decoded word is, the rows of the opcode map, illegal words, and the
pseudo-instructions LDD, NORMHDR.REQ and NORMHDR.RSP. -/

namespace Sys2Proof.Machine

open Sys2Proof.Claims

section Words

variable {c : CmdWord} {i j : Instr}

/-! ### A word and its fields (R46 to R51) -/

/-- Bits 23:0 of a command word, the operands of every format. -/
def operandsOf (c : CmdWord) : BitVec 24 := c.extractLsb' 0 24

theorem opcodeOf_append_operandsOf (c : CmdWord) : opcodeOf c ++ operandsOf c = c :=
  BitVec.extractLsb'_append_extractLsb'

theorem opcodeOf_encode (i : Instr) : opcodeOf (encode i) = i.opcode := BitVec.extractLsb'_append_eq_left

theorem operandsOf_encode (i : Instr) : operandsOf (encode i) = i.operandBits := BitVec.extractLsb'_append_eq_right

/-- A word is a command's when it has the command's opcode and operands. -/
theorem encode_eq_of_fields (ho : i.opcode = opcodeOf c) (hx : i.operandBits = operandsOf c) : encode i = c := by
  rw [encode, ho, hx, opcodeOf_append_operandsOf]

/-- Concatenations of fields of the same widths are equal field by field. -/
theorem append_eq_append_iff {m n : Nat} {a b : BitVec m} {x y : BitVec n} : a ++ x = b ++ y ↔ a = b ∧ x = y := by
  refine ⟨fun h => ⟨?_, ?_⟩, fun ⟨ha, hx⟩ => ha ▸ hx ▸ rfl⟩
  · rw [← BitVec.extractLsb'_append_eq_left (a := a) (b := x), h, BitVec.extractLsb'_append_eq_left]
  · rw [← BitVec.extractLsb'_append_eq_right (a := a) (b := x), h, BitVec.extractLsb'_append_eq_right]

/-- Masked fields that are 0 are 0 in the high field. -/
theorem and_eq_zero_of_append {m n : Nat} {x p : BitVec m} {y q : BitVec n} (h : (x ++ y) &&& (p ++ q) = 0#m ++ 0#n) :
    x &&& p = 0#m :=
  (append_eq_append_iff.1 (BitVec.and_append.symm.trans h)).1

/-- The fields of formats B and W. -/
theorem operandsOf_eq_byteFields (c : CmdWord) : operandsOf c = c.extractLsb' 8 16 ++ c.extractLsb' 0 8 :=
  Eq.symm <| BitVec.extractLsb'_append_extractLsb'_eq_extractLsb' (by rfl)

/-- The fields of format K. -/
theorem operandsOf_eq_laneFields (c : CmdWord) :
    operandsOf c = c.extractLsb' 18 6 ++ c.extractLsb' 16 2 ++ c.extractLsb' 0 16 := by
  have hhigh : c.extractLsb' 18 6 ++ c.extractLsb' 16 2 = c.extractLsb' 16 8 :=
    BitVec.extractLsb'_append_extractLsb'_eq_extractLsb' rfl
  rw [hhigh]
  exact Eq.symm <| BitVec.extractLsb'_append_extractLsb'_eq_extractLsb' (by rfl)

theorem operandsOf_eq_byte_iff {z : BitVec 16} {b : BitVec 8} :
    operandsOf c = z ++ b ↔ c.extractLsb' 8 16 = z ∧ c.extractLsb' 0 8 = b := by
  rw [operandsOf_eq_byteFields]
  exact append_eq_append_iff

theorem operandsOf_eq_lane_iff {z : BitVec 6} {k : BitVec 2} {imm : BitVec 16} :
    operandsOf c = z ++ k ++ imm ↔
      (c.extractLsb' 18 6 = z ∧ c.extractLsb' 16 2 = k) ∧ c.extractLsb' 0 16 = imm := by
  rw [operandsOf_eq_laneFields]
  exact append_eq_append_iff.trans (and_congr_left fun _ => append_eq_append_iff)

/-- Operands whose bits 23:8 are 0 are a byte. -/
theorem exists_byte_of_masked (h : operandsOf c &&& (BitVec.allOnes 16 ++ 0#8) = 0#24) :
    ∃ b : BitVec 8, operandsOf c = 0#16 ++ b := by
  rw [operandsOf_eq_byteFields] at h
  have hzero := and_eq_zero_of_append h
  rw [BitVec.and_allOnes] at hzero
  exact ⟨_, operandsOf_eq_byte_iff.2 ⟨hzero, rfl⟩⟩

/-- Operands whose bits 23:18 are 0 are a lane and its 16 bits. -/
theorem exists_lane_of_masked (h : operandsOf c &&& (BitVec.allOnes 6 ++ 0#2 ++ 0#16) = 0#24) :
    ∃ (k : BitVec 2) (imm : BitVec 16), operandsOf c = 0#6 ++ k ++ imm := by
  rw [operandsOf_eq_laneFields] at h
  have hzero := and_eq_zero_of_append (and_eq_zero_of_append h)
  rw [BitVec.and_allOnes] at hzero
  exact ⟨_, _, operandsOf_eq_lane_iff.2 ⟨⟨hzero, rfl⟩, rfl⟩⟩

/-! ### What each format accepts -/

theorem decodeN_eq_ok_iff : decodeN c i = .ok j ↔ operandsOf c = 0#24 ∧ i = j := by
  unfold decodeN operandsOf
  split_ifs with hzero <;> simp [hzero]

theorem decodeI_eq_ok_iff {f : BitVec 24 → Instr} : decodeI c f = .ok j ↔ f (operandsOf c) = j := by
  simp [decodeI, operandsOf]

theorem decodeK_eq_ok_iff {f : BitVec 2 → BitVec 16 → Instr} :
    decodeK c f = .ok j ↔ ∃ k imm, operandsOf c = 0#6 ++ k ++ imm ∧ f k imm = j := by
  simp only [decodeK, operandsOf_eq_lane_iff]
  split_ifs with hzero <;> simp [hzero]

theorem decodeB_eq_ok_iff {f : BitVec 8 → Instr} :
    decodeB c f = .ok j ↔ ∃ b, operandsOf c = 0#16 ++ b ∧ f b = j := by
  simp only [decodeB, operandsOf_eq_byte_iff]
  split_ifs with hzero <;> simp [hzero]

/-! ### What the decoder accepts (R59) -/

/-- The word of a command decodes to the command. -/
theorem decode_encode (i : Instr) : decode (encode i) = .ok i := by
  have hx := operandsOf_encode i
  rw [decode, opcodeOf_encode]
  cases i with
  | nop | ckinit | ckabs | ckfin | ckrange | ckput | ckvfy => exact decodeN_eq_ok_iff.2 ⟨hx, rfl⟩
  | setoff imm | setlen imm => exact decodeI_eq_ok_iff.2 (congrArg _ hx)
  | setd k imm => exact decodeK_eq_ok_iff.2 ⟨k, imm, hx, rfl⟩
  | ckb b | bswap b | norm b | normm b | ldn b | stn b | ldf b | stf b =>
    exact decodeB_eq_ok_iff.2 ⟨b, hx, rfl⟩

/-- A word that decodes to a command is the command's word. The cases are the arms of `decode`, numbered in its order and
taken together by format: N, I, K, and B with W. -/
theorem encode_of_decode (h : decode c = .ok i) : encode i = c := by
  unfold decode at h
  split at h
  case h_1 ho | h_5 ho | h_7 ho | h_8 ho | h_9 ho | h_10 ho | h_11 ho =>
    obtain ⟨hx, rfl⟩ := decodeN_eq_ok_iff.1 h
    exact encode_eq_of_fields (BitVec.eq_of_toNat_eq ho.symm) hx.symm
  case h_2 ho | h_3 ho =>
    obtain rfl := decodeI_eq_ok_iff.1 h
    exact encode_eq_of_fields (BitVec.eq_of_toNat_eq ho.symm) rfl
  case h_4 ho =>
    obtain ⟨k, imm, hx, rfl⟩ := decodeK_eq_ok_iff.1 h
    exact encode_eq_of_fields (BitVec.eq_of_toNat_eq ho.symm) hx.symm
  case h_6 ho | h_12 ho | h_13 ho | h_14 ho | h_15 ho | h_16 ho | h_17 ho | h_18 ho =>
    obtain ⟨b, hx, rfl⟩ := decodeB_eq_ok_iff.1 h
    exact encode_eq_of_fields (BitVec.eq_of_toNat_eq ho.symm) hx.symm
  case h_19 => cases h

/-! ### The rows of the opcode map (R52) -/

/-- The bits of 23:0 that the format of a command marks "must be 0" (R47 to R51). -/
def mustBeZero : Instr → BitVec 24
  | .nop | .ckinit | .ckabs | .ckfin | .ckrange | .ckput | .ckvfy => BitVec.allOnes 24
  | .setoff _ | .setlen _ => 0#24
  | .setd _ _ => BitVec.allOnes 6 ++ 0#2 ++ 0#16
  | .ckb _ | .bswap _ | .norm _ | .normm _ | .ldn _ | .stn _ | .ldf _ | .stf _ => BitVec.allOnes 16 ++ 0#8

/-- The row of a command in the opcode map. -/
def rowOf (i : Instr) : OpcodeRow := ⟨mnemonic i, i.opcode ++ 0#24, BitVec.allOnes 8 ++ mustBeZero i⟩

theorem rowOf_mem (i : Instr) : rowOf i ∈ opcodeRows := by
  cases i <;> simp only [rowOf, mnemonic, Instr.opcode, mustBeZero] <;> decide

theorem opcodeRows_eq_map_rowOf :
    opcodeRows = List.map rowOf
      [.nop, .setoff 0, .setlen 0, .setd 0 0, .ckinit, .ckb 0, .ckabs, .ckfin, .ckrange, .ckput, .ckvfy,
       .bswap 0, .norm 0, .normm 0, .ldn 0, .stn 0, .ldf 0, .stf 0] := rfl

/-- Every row of the map is the row of a command. -/
theorem exists_rowOf {r : OpcodeRow} (hr : r ∈ opcodeRows) : ∃ i, rowOf i = r := by
  obtain ⟨i, -, hi⟩ := List.mem_map.1 (opcodeRows_eq_map_rowOf ▸ hr)
  exact ⟨i, hi⟩

theorem mnemonic_inj_of_mem :
    ∀ r ∈ opcodeRows, ∀ r' ∈ opcodeRows, r.mnemonic = r'.mnemonic → r = r' := by decide

theorem opcode_inj_of_mem :
    ∀ r ∈ opcodeRows, ∀ r' ∈ opcodeRows, opcodeOf r.value = opcodeOf r'.value → r = r' := by decide

/-- A word fits a command's row when it has the command's opcode and 0 where its format says. -/
theorem rowOf_fits_iff : (rowOf i).fits c = true ↔ opcodeOf c = i.opcode ∧ operandsOf c &&& mustBeZero i = 0#24 := by
  have hmasked : c &&& (rowOf i).mask = opcodeOf c ++ (operandsOf c &&& mustBeZero i) :=
    calc c &&& (rowOf i).mask
      _ = (opcodeOf c ++ operandsOf c) &&& (BitVec.allOnes 8 ++ mustBeZero i) := by
        rw [opcodeOf_append_operandsOf, rowOf]
      _ = opcodeOf c ++ (operandsOf c &&& mustBeZero i) := BitVec.and_append.trans (by rw [BitVec.and_allOnes])
  rw [OpcodeRow.fits, beq_iff_eq, hmasked]
  exact append_eq_append_iff

theorem rowOf_fits_encode (i : Instr) : (rowOf i).fits (encode i) = true := by
  rw [rowOf_fits_iff, operandsOf_encode]
  refine ⟨opcodeOf_encode i, ?_⟩
  cases i with
  | nop | ckinit | ckabs | ckfin | ckrange | ckput | ckvfy => exact BitVec.zero_and
  | setoff | setlen => exact BitVec.and_zero
  | setd k imm => exact Laws.EncodingIsLegal.lane_masked k imm
  | ckb b | bswap b | norm b | normm b | ldn b | stn b | ldf b | stf b => exact Laws.EncodingIsLegal.byte_masked b

/-- A word that fits a command's row decodes to a command of the row. -/
theorem exists_decode_of_fits (h : (rowOf i).fits c = true) : ∃ j, decode c = .ok j ∧ mnemonic j = mnemonic i := by
  obtain ⟨ho, hx⟩ := rowOf_fits_iff.1 h
  rw [decode, ho]
  cases i with
  | nop | ckinit | ckabs | ckfin | ckrange | ckput | ckvfy =>
    exact ⟨_, decodeN_eq_ok_iff.2 ⟨BitVec.and_allOnes.symm.trans hx, rfl⟩, rfl⟩
  | setoff | setlen => exact ⟨_, decodeI_eq_ok_iff.2 rfl, rfl⟩
  | setd =>
    obtain ⟨k, imm, heq⟩ := exists_lane_of_masked hx
    exact ⟨_, decodeK_eq_ok_iff.2 ⟨k, imm, heq, rfl⟩, rfl⟩
  | ckb | bswap | norm | normm | ldn | stn | ldf | stf =>
    obtain ⟨b, heq⟩ := exists_byte_of_masked hx
    exact ⟨_, decodeB_eq_ok_iff.2 ⟨b, heq, rfl⟩, rfl⟩

/-- A word that decodes fits the row of its command. -/
theorem rowOf_fits_of_decode (h : decode c = .ok i) : (rowOf i).fits c = true :=
  encode_of_decode h ▸ rowOf_fits_encode i

/-- A word fits a row of the map exactly when it decodes to a command of that name. -/
theorem fits_iff_decode {r : OpcodeRow} (hr : r ∈ opcodeRows) :
    r.fits c = true ↔ ∃ j, decode c = .ok j ∧ mnemonic j = r.mnemonic := by
  obtain ⟨i, rfl⟩ := exists_rowOf hr
  refine ⟨exists_decode_of_fits, fun ⟨j, hdec, hname⟩ => ?_⟩
  have hrow : rowOf j = rowOf i := mnemonic_inj_of_mem _ (rowOf_mem j) _ (rowOf_mem i) hname
  exact hrow ▸ rowOf_fits_of_decode hdec

theorem opcodeOf_of_fits {r : OpcodeRow} (hr : r ∈ opcodeRows) (h : r.fits c = true) :
    opcodeOf c = opcodeOf r.value := by
  obtain ⟨i, rfl⟩ := exists_rowOf hr
  exact (rowOf_fits_iff.1 h).1.trans BitVec.extractLsb'_append_eq_left.symm

theorem row_eq_of_fits {r r' : OpcodeRow} (hr : r ∈ opcodeRows) (hr' : r' ∈ opcodeRows) (h : r.fits c = true)
    (h' : r'.fits c = true) : r = r' :=
  opcode_inj_of_mem r hr r' hr' ((opcodeOf_of_fits hr h).symm.trans (opcodeOf_of_fits hr' h'))

theorem legalWord_of_decode (h : decode c = .ok i) : legalWord c = true :=
  Laws.EncodingIsLegal.legal_of_row (rowOf_mem i) (rowOf_fits_of_decode h)

/-! ### Illegal words (R55) -/

/-- One of the 238 `OPC` values that R52 leaves out. -/
def UnassignedOpcode (n : Nat) : Prop := 0x04 ≤ n ∧ n ≤ 0x0F ∨ 0x17 ≤ n ∧ n ≤ 0x1F ∨ 0x27 ≤ n

theorem assigned_of_mem : ∀ r ∈ opcodeRows, ¬ UnassignedOpcode (opcodeOf r.value).toNat := by
  unfold UnassignedOpcode
  decide

theorem opcodeOf_toNat (c : CmdWord) : (opcodeOf c).toNat = (c >>> 24).toNat := by
  have hc := c.isLt
  rw [opcodeOf, BitVec.extractLsb'_toNat, BitVec.toNat_ushiftRight, Nat.shiftRight_eq_div_pow]
  omega

theorem exists_decode_error (h : ∀ r ∈ opcodeRows, c &&& r.mask ≠ r.value) : ∃ e, decode c = .error e := by
  cases hdec : decode c with
  | error e => exact ⟨e, rfl⟩
  | ok i => exact absurd (beq_iff_eq.1 (rowOf_fits_of_decode hdec)) (h _ (rowOf_mem i))

end Words

/-! ### LDD (R58) -/

section Ldd

variable {s : State}

theorem stWithErr_stWithErr (st : BitVec 8) (e e' : BitVec 4) : stWithErr (stWithErr st e) e' = stWithErr st e' :=
  congrArg (· ++ e') BitVec.extractLsb'_append_eq_left

/-- The mask of a lane before it is shifted into place. -/
theorem getLsbD_laneMask (n : Nat) : (0xFFFF#64).getLsbD n = decide (n < 16) := by
  have hmask : 0xFFFF#64 = (BitVec.allOnes 16).setWidth 64 := rfl
  rw [hmask, BitVec.getLsbD_setWidth, BitVec.getLsbD_allOnes]
  simp
  omega

/-- The bits of `D` after a lane is written (R53). -/
theorem getLsbD_withLane (k : BitVec 2) (d : BitVec 64) (imm : BitVec 16) {i : Nat} (hi : i < 64) :
    (withLane k d imm).getLsbD i = if i / 16 = k.toNat then imm.getLsbD (i - 16 * k.toNat) else d.getLsbD i := by
  simp only [withLane, BitVec.getLsbD_or, BitVec.getLsbD_and, BitVec.getLsbD_not, BitVec.getLsbD_shiftLeft,
    BitVec.getLsbD_setWidth, getLsbD_laneMask, hi]
  split_ifs with hk
  · have hlo : ¬ i < 16 * k.toNat := by omega
    have hhi : i - 16 * k.toNat < 16 := by omega
    simp [hlo, hhi, Nat.lt_trans hhi]
  · obtain hlo | hhi : i < 16 * k.toNat ∨ 16 ≤ i - 16 * k.toNat := by omega
    · simp [hlo]
    · simp [BitVec.getLsbD_of_ge _ _ hhi, Nat.not_lt.2 hhi]

/-- Writing a lane of `v` into its place gives `v`'s bits there. -/
theorem getLsbD_withLane_extract (k : BitVec 2) (d v : BitVec 64) {n i : Nat} (hn : n = 16 * k.toNat) (hi : i < 64) :
    (withLane k d (v.extractLsb' n 16)).getLsbD i = if i / 16 = k.toNat then v.getLsbD i else d.getLsbD i := by
  rw [getLsbD_withLane k d _ hi, BitVec.getLsbD_extractLsb']
  refine if_ctx_congr Iff.rfl (fun hk => ?_) fun _ => rfl
  rw [hn, Nat.add_sub_cancel' (by omega), decide_eq_true (by omega), Bool.true_and]

/-- The four lanes of `v`, each written into its place, make up `v`. -/
theorem withLane_all (d v : BitVec 64) :
    withLane 3#2 (withLane 2#2 (withLane 1#2 (withLane 0#2 d (v.extractLsb' 0 16)) (v.extractLsb' 16 16))
      (v.extractLsb' 32 16)) (v.extractLsb' 48 16) = v := by
  refine BitVec.eq_of_getLsbD_eq fun i hi => ?_
  rw [getLsbD_withLane_extract 3#2 _ v (n := 48) rfl hi, getLsbD_withLane_extract 2#2 _ v (n := 32) rfl hi,
    getLsbD_withLane_extract 1#2 _ v (n := 16) rfl hi, getLsbD_withLane_extract 0#2 _ v (n := 0) rfl hi]
  have hlane : i / 16 = 3 ∨ i / 16 = 2 ∨ i / 16 = 1 ∨ i / 16 = 0 := by omega
  obtain h | h | h | h := hlane <;> simp [h]

/-- SETD at the head of a list. -/
theorem runAll_setd (hf : s.isFatal = false) (k : BitVec 2) (imm : BitVec 16) (is : List Instr) :
    runAll (.setd k imm :: is) s = runAll is ((s.setD (withLane k s.d imm)).setErr 0#4) :=
  Effect.runAll_cons (.setd k imm) hf nofun is

theorem runAll_nil (s : State) : runAll [] s = some s := rfl

/-- A second write of `D` and of `ERR` replaces the first. -/
theorem State.setD_setErr_setD_setErr (s : State) (v v' : BitVec 64) (e e' : BitVec 4) :
    (((s.setD v).setErr e).setD v').setErr e' = (s.setD v').setErr e' :=
  congrArg (s.setD v').setSt (stWithErr_stWithErr s.st e e')

theorem State.setD_setErr_isFatal (s : State) (v : BitVec 64) (e : BitVec 4) :
    ((s.setD v).setErr e).isFatal = s.isFatal := stFatal_stWithErr s.st e

end Ldd

/-! ### Normalizing by a field table (R93) -/

section Normalize

variable {s t u : State} {is js : List Instr} {fs : List (Nat × Width)} {base : Nat} {be : Bool} {f g : Nat × Width}

/-- The address whose byte normalizing the field `f` of the struct at `base` moves to `x`: on a big-endian host the
bytes of the field change places from the two ends (R84). -/
def swapInField (be : Bool) (base : Nat) (f : Nat × Width) (x : Nat) : Nat :=
  if be = true ∧ base + f.1 ≤ x ∧ x < base + f.1 + f.2.bytes then base + f.1 + (base + f.1 + f.2.bytes - 1 - x) else x

/-- The same for the fields of a table, normalized in their order. -/
def swapInFields (be : Bool) (base : Nat) : List (Nat × Width) → Nat → Nat
  | [], x => x
  | f :: fs, x => swapInField be base f (swapInFields be base fs x)

theorem swapInField_involutive (be : Bool) (base : Nat) (f : Nat × Width) :
    Function.Involutive (swapInField be base f) := by
  intro x
  cases be with
  | false => simp [swapInField]
  | true =>
    simp only [swapInField, true_and]
    split_ifs <;> omega

/-- Fields that lie apart may be normalized in either order. -/
theorem swapInField_comm (h : fieldsApart f g) (x : Nat) :
    swapInField be base f (swapInField be base g x) = swapInField be base g (swapInField be base f x) := by
  unfold fieldsApart at h
  cases be with
  | false => simp [swapInField]
  | true =>
    simp only [swapInField, true_and]
    split_ifs <;> omega

theorem swapInField_swapInFields_comm (h : ∀ g ∈ fs, fieldsApart f g) (x : Nat) :
    swapInField be base f (swapInFields be base fs x) = swapInFields be base fs (swapInField be base f x) := by
  induction fs with
  | nil => rfl
  | cons g fs ih =>
    obtain ⟨hg, hfs⟩ := List.forall_mem_cons.1 h
    rw [swapInFields, swapInField_comm hg, ih hfs, swapInFields]

/-- Normalizing twice by a table without overlap moves every byte back. -/
theorem swapInFields_involutive (be : Bool) (base : Nat) (h : fs.Pairwise fieldsApart) :
    Function.Involutive (swapInFields be base fs) := by
  induction fs with
  | nil => exact fun _ => rfl
  | cons f fs ih =>
    obtain ⟨hf, hfs⟩ := List.pairwise_cons.1 h
    intro x
    rw [swapInFields, swapInFields, ← swapInField_swapInFields_comm hf, ih hfs x, swapInField_involutive]

/-- What normalizing one field leaves at each address. -/
theorem State.bufByte_normalizeField (s : State) (base : Nat) (f : Nat × Width) (x : Nat) :
    (s.normalizeField (base + f.1) f.2.bytes).bufByte x = s.bufByte (swapInField s.hostBE base f x) := by
  rw [State.normalizeField, swapInField]
  cases s.hostBE with
  | false => rfl
  | true =>
    rw [if_pos rfl, State.bufByte_memWrite]
    by_cases hle : base + f.1 ≤ x
    · by_cases hlt : x < base + f.1 + f.2.bytes
      · rw [if_pos hle, if_pos ⟨rfl, hle, hlt⟩, List.getElem?_reverse (by rw [State.memRead_length]; omega),
          State.memRead_length, State.memRead_getElem? _ _ _ _ (by omega), Option.getD_some]
        congr 1
        omega
      · rw [if_pos hle, if_neg (by omega),
          List.getElem?_eq_none (by rw [List.length_reverse, State.memRead_length]; omega), Option.getD_none]
    · rw [if_neg hle, if_neg (by omega)]

/-- `t` is a running state like `s` in which each address `x` of the buffer holds the byte that `m x` holds in `s`. -/
structure MovesBytes (m : Nat → Nat) (s t : State) : Prop where
  running : t.isFatal = false
  hostBE : t.hostBE = s.hostBE
  bufSize : t.bufSize = s.bufSize
  bytes : ∀ x, t.bufByte x = s.bufByte (m x)

theorem MovesBytes.trans {m n : Nat → Nat} (h : MovesBytes m s t) (h' : MovesBytes n t u) :
    MovesBytes (m ∘ n) s u where
  running := h'.running
  hostBE := h'.hostBE.trans h.hostBE
  bufSize := h'.bufSize.trans h.bufSize
  bytes x := (h'.bytes x).trans (h.bytes (n x))

theorem Width_ofField_widthField (v : Width) : Width.ofField (widthField v) = some v := by
  cases v <;> rfl

/-- `SETOFF` to a field and then NORMM, before any other commands. -/
theorem runAll_setoff_normm {o : Offset} (hf : s.isFatal = false) (ho : o.toNat = base + f.1)
    (hb : base + f.1 + f.2.bytes ≤ s.bufSize) :
    ∃ t, stErr t.st = 0#4 ∧ MovesBytes (swapInField s.hostBE base f) s t ∧
      ∀ is, runAll (.setoff o :: .normm (widthField f.2) :: is) s = runAll is t := by
  have hoff : Effect s (.setoff o) (s.setOff o) := .setoff o
  have hnormm : Effect ((s.setOff o).setErr 0#4) (.normm (widthField f.2)) _ :=
    .normm (Width_ofField_widthField f.2) (ho ▸ hb)
  have hrunning := hoff.running hf 0#4
  refine ⟨_, stErr_stWithErr _ _, ⟨hnormm.running hrunning _, ?_, hnormm.keepsUnnamed.bufSize, fun x => ?_⟩,
    fun is => (hoff.runAll_cons hf nofun _).trans (hnormm.runAll_cons hrunning nofun is)⟩
  · exact State.hostBE_congr hnormm.keepsUnnamed.cfg
  · exact ho ▸ State.bufByte_normalizeField ((s.setOff o).setErr 0#4) base f x

theorem normalizeFields_cons_eq_some (h : normalizeFields base (f :: fs) = some is) :
    ∃ (o : Offset) (js : List Instr), is = .setoff o :: .normm (widthField f.2) :: js ∧ o.toNat = base + f.1 ∧
      normalizeFields base fs = some js := by
  rw [normalizeFields] at h
  split at h
  next i js hi hjs =>
    obtain ⟨o, rfl, ho⟩ := asmSetoff_eq_some hi
    exact ⟨o, js, (Option.some.inj h).symm, ho, hjs⟩
  next => cases h

/-- Normalizing a table whose fields lie inside the buffer, before any other commands. -/
theorem runAll_normalizeFields (hf : s.isFatal = false) (his : normalizeFields base fs = some is)
    (hb : ∀ f ∈ fs, base + f.1 + f.2.bytes ≤ s.bufSize) :
    ∃ t, (fs ≠ [] ∨ stErr s.st = 0#4 → stErr t.st = 0#4) ∧ MovesBytes (swapInFields s.hostBE base fs) s t ∧
      ∀ js, runAll (is ++ js) s = runAll js t := by
  induction fs generalizing s is with
  | nil =>
    obtain rfl := Option.some.inj his
    exact ⟨s, fun herr => herr.resolve_left (absurd rfl), ⟨hf, rfl, rfl, fun _ => rfl⟩, fun _ => rfl⟩
  | cons f fs ih =>
    obtain ⟨hbf, hbfs⟩ := List.forall_mem_cons.1 hb
    obtain ⟨o, is, rfl, ho, his⟩ := normalizeFields_cons_eq_some his
    obtain ⟨t, herr, hmoves, hrun⟩ := runAll_setoff_normm hf ho hbf
    obtain ⟨u, herr', hmoves', hrun'⟩ := ih hmoves.running his (hmoves.bufSize ▸ hbfs)
    rw [hmoves.hostBE] at hmoves'
    exact ⟨u, fun _ => herr' (.inr herr), hmoves.trans hmoves', fun js => (hrun _).trans (hrun' js)⟩

/-- Normalizing a struct twice restores every byte, since its fields lie apart. -/
theorem runAll_normalizeStruct_twice {k : StructKind} (hf : s.isFatal = false) (his : normalizeStruct k base = some is)
    (hk : fieldTable k ≠ []) (hb : ∀ f ∈ fieldTable k, base + f.1 + f.2.bytes ≤ s.bufSize) :
    ∃ t, runAll (is ++ is) s = some t ∧ stErr t.st = 0#4 ∧ ∀ a, t.bufByte a = s.bufByte a := by
  obtain ⟨t, -, hmoves, hrun⟩ := runAll_normalizeFields hf his hb
  obtain ⟨u, herr, hmoves', hrun'⟩ := runAll_normalizeFields hmoves.running his (hmoves.bufSize ▸ hb)
  rw [hmoves.hostBE] at hmoves'
  have hagain : runAll is t = some u := is.append_nil ▸ hrun' []
  refine ⟨u, (hrun is).trans hagain, herr (.inl hk), fun a => ?_⟩
  rw [(hmoves.trans hmoves').bytes, Function.comp_apply, swapInFields_involutive _ _ (fieldTable_apart k)]

theorem pseudoNormhdrReq_eq (base : Nat) : pseudoNormhdrReq base = normalizeStruct .requestHeader base := by
  simp only [pseudoNormhdrReq, normalizeStruct, fieldTable, normalizeFields]
  cases asmSetoff (base + 2) <;> cases asmSetoff (base + 4) <;> rfl

theorem pseudoNormhdrRsp_eq (base : Nat) : pseudoNormhdrRsp base = normalizeStruct .responseHeader base := by
  simp only [pseudoNormhdrRsp, normalizeStruct, fieldTable, normalizeFields]
  cases asmSetoff (base + 2) <;> rfl

end Normalize

/-! ### The obligations of the family -/

/-- Settles O20, by the format of each command. -/
theorem decodeEncodeAgree : Obligations.DecodeEncodeAgree := decode_encode

/-- Settles O21: a word is its opcode and its operands, which each format reads back. -/
theorem encodeDecodeAgree : Obligations.EncodeDecodeAgree := fun _ _ => encode_of_decode

/-- Settles O22: each row is the row of a command, and its opcode tells it from the others. -/
theorem decoderAcceptsOpcodeMap : Obligations.DecoderAcceptsOpcodeMap :=
  ⟨fun _ _ => fits_iff_decode, fun _ _ => legalWord_of_decode, fun _ _ _ => row_eq_of_fits, rfl⟩

/-- Settles O25: the 18 rows have assigned opcodes, and a word that fits none of them does not decode. -/
theorem illegalWordIsFatal : Obligations.IllegalWordIsFatal := by
  refine ⟨fun c => ?_, fun s c q hp hf hrows => ?_⟩
  · intro opc hopc r hr heq
    have hrow : opcodeOf c = opcodeOf r.value := opcodeOf_of_fits hr (beq_iff_eq.2 heq)
    refine assigned_of_mem r hr ?_
    rwa [← hrow, opcodeOf_toNat]
  · obtain ⟨e, he⟩ := exists_decode_error hrows
    have htaken : ((s.setPending q).setPc (s.pc + 1)).isFatal = false := hf
    rw [step_illegal hp he, State.issue_illegalCommand htaken]
    rfl

/-- Settles O54: the four lanes make up the value, and each SETD writes `ERR` 0 again. -/
theorem lddLoadsAllOfD : Obligations.LddLoadsAllOfD := by
  intro v s hf
  have hrun : runAll (pseudoLdd v) s = some ((s.setD v).setErr 0#4) := by
    simp only [pseudoLdd, runAll_setd, State.setD_setErr_isFatal, hf, State.setD_setErr_setD_setErr, State.setErr_d,
      State.setD_d, withLane_all, runAll_nil]
  rw [hrun, State.setErr, State.setD_st, stWithErr_zero]
  rfl

/-- Settles O55: the expansions are the normalizations by the two field tables, which undo themselves. -/
theorem headerNormalizationUndoesItself : Obligations.HeaderNormalizationUndoesItself := by
  refine ⟨fun base => ⟨pseudoNormhdrReq_eq base, pseudoNormhdrRsp_eq base⟩, fun s base n is hf his hb => ?_⟩
  obtain ⟨his, rfl⟩ | ⟨his, rfl⟩ := his
  · refine runAll_normalizeStruct_twice hf ((pseudoNormhdrReq_eq base).symm.trans his) nofun ?_
    simp only [fieldTable, List.forall_mem_cons, Width.bytes]
    exact ⟨by omega, by omega, nofun⟩
  · refine runAll_normalizeStruct_twice hf ((pseudoNormhdrRsp_eq base).symm.trans his) nofun ?_
    simp only [fieldTable, List.forall_mem_cons, Width.bytes]
    exact ⟨by omega, nofun⟩

/-- Settles O19: eight words, decoded. -/
theorem sampleWordsDecode : Obligations.SampleWordsDecode := by
  unfold Obligations.SampleWordsDecode
  decide

end Sys2Proof.Machine

/-! PROOFS of the family spec/40_checksum.md: what the step functions compute, the closed form of the checksum and what
it detects, and the seven checksum commands. -/

namespace Sys2Proof.Machine

open Sys2Proof.Claims

/-! ### The step functions compute the function (R63) -/

section Stream

variable {s : State}

/-- The two accumulators of the block. -/
def State.sums (s : State) : Sums := ⟨s.a1, s.a2⟩

/-- The accumulators once an open chunk is closed, which is how `finish` begins (R61). -/
def State.closed (s : State) : Sums := if s.cnt = 0#5 then s.sums else s.sums.fold

theorem State.closed_of_chunkStart (h : s.cnt = 0#5) : s.closed = s.sums := if_pos h

theorem State.closed_of_open (h : s.cnt ≠ 0#5) : s.closed = s.sums.fold := if_neg h

theorem State.finish_ck (s : State) : s.finish.ck = s.closed.fold.result := rfl

theorem State.absorbAll_append (s : State) (bs cs : List Byte) :
    s.absorbAll (bs ++ cs) = (s.absorbAll bs).absorbAll cs := List.foldl_append

/-- The next byte fills the chunk exactly when 19 are in it. -/
theorem chunk_full_iff (c : BitVec 5) : c + 1#5 = BitVec.ofNat 5 Config.chunkMax ↔ c = 19#5 := by
  revert c; decide

theorem State.absorb_full (h : s.cnt = 19#5) (b : Byte) :
    s.absorb b = s.setAcc (s.sums.addByte b).fold.a1 (s.sums.addByte b).fold.a2 0#5 :=
  State.absorb_of_full ((chunk_full_iff _).2 h) b

theorem State.absorb_not_full (h : s.cnt ≠ 19#5) (b : Byte) :
    s.absorb b = s.setAcc (s.sums.addByte b).a1 (s.sums.addByte b).a2 (s.cnt + 1#5) :=
  State.absorb_of_not_full (mt (chunk_full_iff _).1 h) b

/-- `CNT` counts the bytes modulo 20 (R63). -/
theorem State.absorb_cnt (h : s.cnt.toNat ≤ 19) (b : Byte) : (s.absorb b).cnt.toNat = (s.cnt.toNat + 1) % 20 := by
  by_cases hfull : s.cnt = 19#5
  · rw [State.absorb_full hfull, hfull]
    rfl
  · have hne : s.cnt.toNat ≠ 19 := fun h19 => hfull (BitVec.eq_of_toNat_eq h19)
    rw [State.absorb_not_full hfull, State.setAcc_cnt, BitVec.toNat_add, BitVec.toNat_ofNat]
    omega

/-- The same for the bytes of a list. -/
theorem State.absorbAll_cnt (h : s.cnt.toNat ≤ 19) (bs : List Byte) :
    (s.absorbAll bs).cnt.toNat = (s.cnt.toNat + bs.length) % 20 := by
  induction bs generalizing s with
  | nil => exact (Nat.mod_eq_of_lt (Nat.lt_succ_of_le h)).symm
  | cons b bs ih =>
    have hcnt := State.absorb_cnt h b
    rw [List.length_cons]
    exact (ih (by omega)).trans (by omega)

/-- A full chunk absorbed from its start leaves no chunk open. -/
theorem State.absorbAll_fullChunk_cnt {bs : List Byte} (hcnt : s.cnt = 0#5) (hlen : bs.length = Config.chunkMax) :
    (s.absorbAll bs).cnt = 0#5 := by
  apply BitVec.eq_of_toNat_eq
  rw [State.absorbAll_cnt (by simp [hcnt]), hcnt, hlen]
  rfl

/-- Absorbing the bytes of a chunk, all of them or its rest, and closing it is adding them and folding once. -/
theorem State.closed_absorbAll_chunk (bs : List Byte) (hlen : s.cnt.toNat + bs.length ≤ 20)
    (hne : s.cnt = 0#5 → bs ≠ []) : (s.absorbAll bs).closed = (bs.foldl Sums.addByte s.sums).fold := by
  induction bs generalizing s with
  | nil => exact State.closed_of_open fun h => hne h rfl
  | cons b bs ih =>
    rw [List.length_cons] at hlen
    by_cases hfull : s.cnt = 19#5
    · obtain rfl : bs = [] := List.eq_nil_of_length_eq_zero (by rw [hfull, BitVec.toNat_ofNat] at hlen; omega)
      exact congrArg State.closed (State.absorb_full hfull b)
    · have hnot19 : s.cnt.toNat ≠ 19 := fun h19 => hfull (BitVec.eq_of_toNat_eq h19)
      have hcnt := State.absorb_cnt (s := s) (by omega) b
      have hsums : (s.absorb b).sums = s.sums.addByte b := congrArg State.sums (State.absorb_not_full hfull b)
      rw [List.foldl_cons, ← hsums]
      refine ih (by omega) fun hzero => ?_
      rw [hzero, BitVec.toNat_ofNat] at hcnt
      omega

theorem chunkLoop_nil (fuel : Nat) (x : Sums) : chunkLoop fuel x [] = x := by
  cases fuel <;> rfl

theorem chunkLoop_succ {bs : List Byte} (hne : bs ≠ []) (fuel : Nat) (x : Sums) :
    chunkLoop (fuel + 1) x bs =
      chunkLoop fuel ((bs.take Config.chunkMax).foldl Sums.addByte x).fold (bs.drop Config.chunkMax) := by
  cases bs with
  | nil => exact absurd rfl hne
  | cons b bs => rfl

/-- The bytes after the first chunk are fewer than all of them. -/
theorem length_drop_chunkMax {bs : List Byte} {fuel : Nat} (hfuel : bs.length ≤ fuel + 1) :
    (bs.drop Config.chunkMax).length ≤ fuel := by
  rw [List.length_drop, Config.chunkMax]
  omega

/-- From a chunk start, absorbing the bytes and closing the last chunk is R62's loop over the chunks. -/
theorem State.closed_absorbAll (fuel : Nat) (bs : List Byte) (hcnt : s.cnt = 0#5) (hfuel : bs.length ≤ fuel) :
    (s.absorbAll bs).closed = chunkLoop fuel s.sums bs := by
  induction fuel generalizing s bs with
  | zero =>
    obtain rfl := List.eq_nil_of_length_eq_zero (Nat.le_zero.1 hfuel)
    exact State.closed_of_chunkStart hcnt
  | succ fuel ih =>
    obtain rfl | hne := eq_or_ne bs []
    · exact State.closed_of_chunkStart hcnt
    have hcnt0 : s.cnt.toNat = 0 := congrArg BitVec.toNat hcnt
    have hlen : (bs.take Config.chunkMax).length ≤ 20 := List.length_take_le _ _
    have hchunk : (s.absorbAll (bs.take Config.chunkMax)).closed = _ :=
      State.closed_absorbAll_chunk _ (by omega) fun _ => by simp [hne, Config.chunkMax]
    rw [chunkLoop_succ hne, ← hchunk]
    conv_lhs => rw [← bs.take_append_drop Config.chunkMax, State.absorbAll_append]
    by_cases hlast : bs.length ≤ Config.chunkMax
    · rw [List.drop_eq_nil_of_le hlast, chunkLoop_nil]
      rfl
    · have hfull : (s.absorbAll (bs.take Config.chunkMax)).cnt = 0#5 :=
        State.absorbAll_fullChunk_cnt hcnt (List.length_take_of_le (Nat.le_of_not_le hlast))
      rw [State.closed_of_chunkStart hfull]
      exact ih _ hfull (length_drop_chunkMax hfuel)

/-- R63: from the seed, absorbing the bytes and finishing leaves their checksum in `CK`. -/
theorem State.absorbAll_finish_ck (bs : List Byte) (h1 : s.a1 = Config.seed) (h2 : s.a2 = Config.seed)
    (hcnt : s.cnt = 0#5) : (s.absorbAll bs).finish.ck = fletcher bs := by
  rw [State.finish_ck, State.closed_absorbAll bs.length bs hcnt le_rfl, State.sums, h1, h2, fletcher]

end Stream

/-! ### The closed form (R65) -/

section ClosedForm

variable {x y z : Sums} {bs cs : List Byte}

@[simp] theorem plainSum_append (bs cs : List Byte) : plainSum (bs ++ cs) = plainSum bs + plainSum cs := by
  induction bs with
  | nil => simp [plainSum]
  | cons b bs ih => rw [List.cons_append, plainSum, plainSum, ih, Nat.add_assoc]

/-- Each byte after `bs` takes the sum of `bs` into the second sum once more. -/
@[simp] theorem weightedSum_append (bs cs : List Byte) :
    weightedSum (bs ++ cs) = weightedSum bs + cs.length * plainSum bs + weightedSum cs := by
  induction bs with
  | nil => simp [weightedSum, plainSum]
  | cons b bs ih =>
    rw [List.cons_append, weightedSum, weightedSum, plainSum, ih, List.length_append]
    ring

/-- `y` is, modulo 255, what adding the bytes `bs` to `x` gives: the plain sum in the first sum, and the weighted sum and
the first sum once a byte in the second. -/
structure Sums.Adds (x : Sums) (bs : List Byte) (y : Sums) : Prop where
  a1 : (y.a1.toNat : ZMod 255) = x.a1.toNat + plainSum bs
  a2 : (y.a2.toNat : ZMod 255) = x.a2.toNat + bs.length * x.a1.toNat + weightedSum bs

theorem Sums.Adds.refl (x : Sums) : x.Adds [] x where
  a1 := by simp [plainSum]
  a2 := by simp [weightedSum]

theorem Sums.Adds.trans (h : x.Adds bs y) (h' : y.Adds cs z) : x.Adds (bs ++ cs) z where
  a1 := by
    rw [h'.a1, h.a1, plainSum_append, Nat.cast_add, add_assoc]
  a2 := by
    rw [h'.a2, h.a2, h.a1, weightedSum_append, List.length_append]
    push_cast
    ring

/-- Because 256 = 255 + 1, a fold keeps the residue. -/
theorem fold16_cast (v : BitVec 16) : ((fold16 v).toNat : ZMod 255) = v.toNat := by
  rw [ZMod.natCast_eq_natCast_iff', fold16_toNat]
  omega

theorem Sums.Adds.fold (h : x.Adds bs y) : x.Adds bs y.fold where
  a1 := (fold16_cast _).trans h.a1
  a2 := (fold16_cast _).trans h.a2

/-- Inside a chunk no sum wraps (R64). -/
theorem Sums.Bounded.adds_addByte {k : Nat} (h : x.Bounded k) (hk : k ≤ 19) (b : Byte) :
    x.Adds [b] (x.addByte b) := by
  obtain ⟨hw1, hw2⟩ := h.no_wrap hk b
  have ha1 : (x.addByte b).a1.toNat = x.a1.toNat + b.toNat := by rw [Sums_addByte_a1, Nat.mod_eq_of_lt (by omega)]
  have ha2 : (x.addByte b).a2.toNat = x.a2.toNat + (x.a1.toNat + b.toNat) := by
    rw [Sums_addByte_a2, ha1, Nat.mod_eq_of_lt (by omega)]
  constructor
  · simp [ha1, plainSum]
  · simp [ha2, weightedSum, add_assoc]

theorem Sums.Bounded.adds_foldl {k : Nat} (h : x.Bounded k) (hk : k + bs.length ≤ 20) :
    x.Adds bs (bs.foldl Sums.addByte x) := by
  induction bs generalizing x k with
  | nil => exact .refl x
  | cons b bs ih =>
    rw [List.length_cons] at hk
    exact (h.adds_addByte (by omega) b).trans (ih (h.addByte (by omega) b) (by omega))

theorem Sums.Bounded.adds_chunkLoop {fuel : Nat} (h : x.Bounded 0) (hfuel : bs.length ≤ fuel) :
    x.Adds bs (Machine.chunkLoop fuel x bs) := by
  induction fuel generalizing x bs with
  | zero =>
    obtain rfl := List.eq_nil_of_length_eq_zero (Nat.le_zero.1 hfuel)
    exact .refl x
  | succ fuel ih =>
    obtain rfl | hne := eq_or_ne bs []
    · exact .refl x
    have hlen : (bs.take Config.chunkMax).length ≤ 20 := List.length_take_le _ _
    have hchunk := h.foldl_addByte (bs.take Config.chunkMax) (by omega)
    have hadds := (h.adds_foldl (bs := bs.take Config.chunkMax) (by omega)).fold.trans
      (ih hchunk.fold (length_drop_chunkMax hfuel))
    rw [List.take_append_drop] at hadds
    rwa [chunkLoop_succ hne]

/-- The fold that ends a checksum leaves each sum from 1 to 0xFF (R64). -/
theorem Sums.Bounded.fold_byte (h : x.Bounded 0) :
    (1 ≤ x.fold.a1.toNat ∧ x.fold.a1.toNat ≤ 255) ∧ 1 ≤ x.fold.a2.toNat ∧ x.fold.a2.toNat ≤ 255 := by
  obtain ⟨hpos1, h1, hpos2, h2⟩ := h
  exact ⟨⟨fold16_pos hpos1, fold16_le_byte h1⟩, fold16_pos hpos2, fold16_le_byte (by omega)⟩

/-- The two bytes of a checksum are the two folded sums. -/
theorem Sums.Bounded.result_bytes (h : x.Bounded 0) :
    (x.fold.result.extractLsb' 0 8).toNat = x.fold.a1.toNat ∧
    (x.fold.result.extractLsb' 8 8).toNat = x.fold.a2.toNat := by
  obtain ⟨⟨-, h1⟩, -, h2⟩ := h.fold_byte
  have hres := Sums.result_toNat h1 h2
  constructor
  all_goals
    rw [BitVec.extractLsb'_toNat, hres, Nat.shiftRight_eq_div_pow]
    omega

/-- A number from 1 to 0xFF is the byte that R65 shows for its residue. -/
theorem eq_residueByte {v n : Nat} (hv : 1 ≤ v ∧ v ≤ 255) (h : (v : ZMod 255) = n) : v = residueByte n := by
  rw [ZMod.natCast_eq_natCast_iff'] at h
  rw [residueByte]
  split_ifs <;> omega

/-- Two numbers show the same byte exactly when they have the same residue. -/
theorem residueByte_eq_iff {m n : Nat} : residueByte m = residueByte n ↔ m % 255 = n % 255 := by
  unfold residueByte
  split_ifs <;> omega

theorem seed_cast : (Config.seed.toNat : ZMod 255) = 0 := rfl

/-- R65: the residues of the two sums after the chunks, from the seed, whose residue is 0. -/
theorem fletcher_bytes (bs : List Byte) :
    ((fletcher bs).extractLsb' 0 8).toNat = residueByte (plainSum bs) ∧
    ((fletcher bs).extractLsb' 8 8).toNat = residueByte (weightedSum bs) := by
  have hloop := seed_bounded.chunkLoop bs.length bs
  obtain ⟨hbyte1, hbyte2⟩ := hloop.fold_byte
  obtain ⟨hlow, hhigh⟩ := hloop.result_bytes
  obtain ⟨ha1, ha2⟩ := (seed_bounded.adds_chunkLoop (bs := bs) le_rfl).fold
  rw [seed_cast, zero_add] at ha1
  rw [seed_cast, mul_zero, zero_add, zero_add] at ha2
  exact ⟨hlow.trans (eq_residueByte hbyte1 ha1), hhigh.trans (eq_residueByte hbyte2 ha2)⟩

/-! ### More folds (R75) -/

theorem fold16_of_le {v : BitVec 16} (h : v.toNat ≤ 255) : fold16 v = v := by
  apply BitVec.eq_of_toNat_eq
  rw [fold16_toNat]
  omega

theorem Sums.Bounded.fold_fold (h : x.Bounded 0) : x.fold.fold = x.fold := by
  obtain ⟨⟨-, h1⟩, -, h2⟩ := h.fold_byte
  rw [Sums.fold, fold16_of_le h1, fold16_of_le h2]

/-! ### What the checksum detects (R66) -/

/-- The low byte of the checksum depends on the residue of the plain sum alone. -/
theorem fletcher_low_eq_iff :
    (fletcher bs).extractLsb' 0 8 = (fletcher cs).extractLsb' 0 8 ↔ plainSum bs % 255 = plainSum cs % 255 := by
  rw [← BitVec.toNat_inj, (fletcher_bytes bs).1, (fletcher_bytes cs).1, residueByte_eq_iff]

theorem fletcher_high_eq_iff :
    (fletcher bs).extractLsb' 8 8 = (fletcher cs).extractLsb' 8 8 ↔ weightedSum bs % 255 = weightedSum cs % 255 := by
  rw [← BitVec.toNat_inj, (fletcher_bytes bs).2, (fletcher_bytes cs).2, residueByte_eq_iff]

/-- A 16-bit number is its high byte followed by its low byte. -/
theorem highByte_append_lowByte (v : BitVec 16) : v.extractLsb' 8 8 ++ v.extractLsb' 0 8 = v :=
  BitVec.extractLsb'_append_extractLsb'

theorem fletcher_eq_iff :
    fletcher bs = fletcher cs ↔
      plainSum bs % 255 = plainSum cs % 255 ∧ weightedSum bs % 255 = weightedSum cs % 255 := by
  rw [← fletcher_low_eq_iff, ← fletcher_high_eq_iff]
  refine ⟨fun h => by rw [h]; exact ⟨rfl, rfl⟩, fun ⟨hlow, hhigh⟩ => ?_⟩
  rw [← highByte_append_lowByte (fletcher bs), hlow, hhigh, highByte_append_lowByte]

/-- Bytes with the same residue are the same, or 0x00 and 0xFF. -/
theorem eq_or_xor_eq_of_mod {b c : Byte} (h : b.toNat % 255 = c.toNat % 255) : b = c ∨ b ^^^ c = 0xFF#8 := by
  have hb := b.isLt
  have hc := c.isLt
  obtain heq | ⟨hb0, hc255⟩ | ⟨hb255, hc0⟩ :
      b.toNat = c.toNat ∨ (b.toNat = 0 ∧ c.toNat = 255) ∨ (b.toNat = 255 ∧ c.toNat = 0) := by omega
  · exact .inl (BitVec.eq_of_toNat_eq heq)
  · obtain rfl : b = 0x00#8 := BitVec.eq_of_toNat_eq hb0
    obtain rfl : c = 0xFF#8 := BitVec.eq_of_toNat_eq hc255
    exact .inr rfl
  · obtain rfl : b = 0xFF#8 := BitVec.eq_of_toNat_eq hb255
    obtain rfl : c = 0x00#8 := BitVec.eq_of_toNat_eq hc0
    exact .inr rfl

/-- One bit is neither no bit nor all 8. -/
theorem oneBit_ne : ∀ k < 8, 1#8 <<< k ≠ 0#8 ∧ 1#8 <<< k ≠ 0xFF#8 := by decide

/-- Flipping one bit changes the residue of a byte. -/
theorem mod_flipBit_ne (b : Byte) {k : Nat} (hk : k < 8) : (b ^^^ (1#8 <<< k)).toNat % 255 ≠ b.toNat % 255 := by
  intro h
  obtain ⟨hzero, hones⟩ := oneBit_ne k hk
  have hxor : (b ^^^ (1#8 <<< k)) ^^^ b = 1#8 <<< k := by
    rw [BitVec.xor_comm, ← BitVec.xor_assoc, BitVec.xor_self, BitVec.zero_xor]
  obtain heq | heq := eq_or_xor_eq_of_mod h
  · rw [heq, BitVec.xor_self] at hxor
    exact hzero hxor.symm
  · exact hones (hxor.symm.trans heq)

/-- R66 (a): the flip changes the plain sum by a number that is no multiple of 255. -/
theorem fletcher_flipBit_low_ne (bs cs : List Byte) (b : Byte) {k : Nat} (hk : k < 8) :
    (fletcher (bs ++ (b ^^^ (1#8 <<< k)) :: cs)).extractLsb' 0 8 ≠ (fletcher (bs ++ b :: cs)).extractLsb' 0 8 := by
  intro h
  rw [fletcher_low_eq_iff, plainSum_append, plainSum_append, plainSum, plainSum] at h
  have hne := mod_flipBit_ne b hk
  omega

/-- R66 (b): both sums change by a multiple of 255. -/
theorem fletcher_zero_eq_ones (bs cs : List Byte) :
    fletcher (bs ++ 0x00#8 :: cs) = fletcher (bs ++ 0xFF#8 :: cs) := by
  have hones : (0xFF#8).toNat = 255 := rfl
  rw [fletcher_eq_iff]
  simp only [plainSum_append, weightedSum_append, plainSum, weightedSum, List.length_cons, hones, BitVec.toNat_zero]
  omega

end ClosedForm

/-! ### The bytes of a range -/

section Range

variable {s t : State} {i k n : Nat}

theorem rangeBytes_eq_memRead (s : State) : rangeBytes s = s.memRead s.off.toNat s.len.toNat := by
  refine List.ext_getElem? fun i => ?_
  by_cases hi : i < s.len.toNat
  · rw [State.memRead_getElem? _ _ _ _ hi, rangeBytes, List.getElem?_map, List.getElem?_range hi, Option.map_some]
  · rw [List.getElem?_eq_none (by simpa [rangeBytes] using hi), List.getElem?_eq_none (by simpa using hi)]

theorem State.checksumRange_ck (s : State) : s.checksumRange.ck = fletcher (s.memRead s.off.toNat s.len.toNat) := rfl

/-- The checksum of a range depends on its place, its length and its bytes alone (R74). -/
theorem State.checksumRange_ck_congr (hoff : s.off = t.off) (hlen : s.len = t.len)
    (hbytes : ∀ i < s.len.toNat, s.bufByte (s.off.toNat + i) = t.bufByte (s.off.toNat + i)) :
    s.checksumRange.ck = t.checksumRange.ck := by
  rw [State.checksumRange_ck, State.checksumRange_ck, ← hoff, ← hlen, State.memRead_eq_of_bytes s t _ _ hbytes]

theorem State.memRead_append (s : State) (a m n : Nat) :
    s.memRead a (m + n) = s.memRead a m ++ s.memRead (a + m) n := by
  induction m generalizing a with
  | zero => rw [Nat.zero_add, Nat.add_zero, State.memRead, List.nil_append]
  | succ m ih =>
    rw [Nat.succ_add, State.memRead, State.memRead, ih, List.cons_append, Nat.add_right_comm, Nat.add_assoc]

/-- A byte written inside a range takes the place of the byte that was there. -/
theorem State.memRead_setByte (s : State) (a : Nat) (v : Byte) (hi : i < n) :
    (s.setByte (a + i) v).memRead a n =
      s.memRead a i ++ v :: s.memRead (a + i + 1) (n - i - 1) := by
  obtain ⟨m, rfl⟩ : ∃ m, n = i + (m + 1) := ⟨n - i - 1, by omega⟩
  rw [State.memRead_append, State.memRead, State.bufByte_setByte, if_pos rfl, show i + (m + 1) - i - 1 = m by omega]
  congr 1
  · exact State.memRead_eq_of_bytes _ _ _ _ fun j hj => by rw [State.bufByte_setByte, if_neg (by omega)]
  · congr 1
    exact State.memRead_eq_of_bytes _ _ _ _ fun j hj => by rw [State.bufByte_setByte, if_neg (by omega)]

/-- R66 (a) for a byte of a range of the buffer. -/
theorem State.fletcher_memRead_flipBit_ne (s : State) (a : Nat) (hi : i < n) (hk : k < 8) :
    fletcher ((s.setByte (a + i) (s.bufByte (a + i) ^^^ (1#8 <<< k))).memRead a n) ≠ fletcher (s.memRead a n) := by
  have hsame : s.memRead a n = (s.setByte (a + i) (s.bufByte (a + i))).memRead a n :=
    State.memRead_eq_of_bytes _ _ _ _ fun j _ => by
      rw [State.bufByte_setByte]
      split_ifs with heq
      · rw [heq]
      · rfl
  intro h
  rw [hsame, State.memRead_setByte s a _ hi, State.memRead_setByte s a _ hi] at h
  exact fletcher_flipBit_low_ne _ _ _ hk (congrArg (·.extractLsb' 0 8) h)

end Range

/-! ### The next state of each command -/

section Commands

variable {s u : State} {i : Instr} {n : Nat}

/-- A command that succeeds, `ST` written as a mask. -/
theorem Effect.exec_next (hu : Effect s i u) (hf : s.isFatal = false) (hi : i ≠ .ckvfy) :
    exec i s = .next { u with st := s.st &&& 0xF0#8 } := by
  rw [hu.exec_eq hf hi, State.setErr, stWithErr_zero, hu.st_eq]
  rfl

theorem encode_ckb (b : BitVec 8) : encode (.ckb b) = 0x11000000#32 ||| b.setWidth 32 := by
  revert b
  decide

/-- The trailer stored after the range, its low byte first. -/
def State.storedTrailer (s : State) : BitVec 16 := s.bufByte (s.trailerAt + 1) ++ s.bufByte s.trailerAt

theorem State.wireRead_trailer (s : State) :
    s.wireRead s.trailerAt Config.trailerBytes = s.storedTrailer.toNat := by
  rw [State.wireRead_eq_leNat, State.storedTrailer, BitVec.toNat_append]
  simp only [Config.trailerBytes, State.memRead, leNat]
  rw [← Nat.shiftLeft_add_eq_or_of_lt (BitVec.isLt _), Nat.shiftLeft_eq]
  omega

theorem State.storedTrailer_setByte {a : Nat} (h : a < s.trailerAt) (v : Byte) :
    (s.setByte a v).storedTrailer = s.storedTrailer := by
  have htrailer : (s.setByte a v).trailerAt = s.trailerAt := rfl
  rw [State.storedTrailer, State.storedTrailer, htrailer, State.bufByte_setByte, State.bufByte_setByte,
    if_neg (by omega), if_neg (by omega)]

/-- CKPUT changes `BUF` and nothing else but `ST`. -/
theorem State.putTrailer_eq_setBuf (s : State) : s.putTrailer = s.setBuf s.putTrailer.buf := by
  rw [State.putTrailer, State.wireWrite_eq_memWrite]
  exact State.memWrite_eq_setBuf _ _ _

@[simp] theorem State.putTrailer_off (s : State) : s.putTrailer.off = s.off := by
  rw [State.putTrailer_eq_setBuf, State.setBuf_off]
@[simp] theorem State.putTrailer_len (s : State) : s.putTrailer.len = s.len := by
  rw [State.putTrailer_eq_setBuf, State.setBuf_len]
@[simp] theorem State.putTrailer_bufSize (s : State) : s.putTrailer.bufSize = s.bufSize := by
  rw [State.putTrailer_eq_setBuf, State.setBuf_bufSize]
@[simp] theorem State.putTrailer_trailerAt (s : State) : s.putTrailer.trailerAt = s.trailerAt := by
  simp [State.trailerAt]

theorem State.storedTrailer_putTrailer (s : State) : s.putTrailer.storedTrailer = s.ck := by
  rw [State.storedTrailer, State.putTrailer_trailerAt, State.bufByte_putTrailer, State.bufByte_putTrailer,
    if_neg (by omega), if_pos rfl, if_pos rfl, highByte_append_lowByte]

/-- The trailer lies after the bytes that the checksum covers. -/
theorem State.checksumRange_putTrailer_ck (s : State) : s.putTrailer.checksumRange.ck = s.checksumRange.ck := by
  refine State.checksumRange_ck_congr s.putTrailer_off s.putTrailer_len fun i hi => ?_
  rw [State.putTrailer_len] at hi
  rw [State.putTrailer_off, State.bufByte_putTrailer, State.trailerAt, if_neg (by omega), if_neg (by omega)]

/-- CKVFY inside the buffer (R73): the checksum left in `CK` whether the stored trailer is the same or not. -/
theorem exec_ckvfy (hf : s.isFatal = false) (hb : s.trailerAt + 2 ≤ s.bufSize) :
    exec .ckvfy s = .next (s.checksumRange.setErr
      (if s.storedTrailer = s.checksumRange.ck then 0#4 else ErrCode.checksumMismatch.code)) := by
  have hbody : exec .ckvfy s = s.issue s.compareTrailer := congrArg s.issue (State.inBounds_pos hb _)
  rw [hbody, State.issue_running hf, State.compareTrailer]
  simp only [State.wireRead_trailer, BitVec.toNat_inj]
  split_ifs <;> rfl

/-- CKVFY accepts the trailer that CKPUT wrote when `CK` held the checksum of the range. -/
theorem exec_ckvfy_putTrailer (hf : s.isFatal = false) (hb : s.trailerAt + 2 ≤ s.bufSize)
    (hck : s.ck = s.checksumRange.ck) :
    ∃ t, exec .ckvfy (s.putTrailer.setErr 0#4) = .next t ∧ stErr t.st = 0#4 ∧ t.isFatal = false ∧ t.ck = s.ck := by
  have hrunning : (s.putTrailer.setErr 0#4).isFatal = false := Effect.running (.ckput hb) hf 0#4
  have hroom : (s.putTrailer.setErr 0#4).trailerAt + 2 ≤ (s.putTrailer.setErr 0#4).bufSize := by
    simpa [State.trailerAt] using hb
  have hsum : (s.putTrailer.setErr 0#4).checksumRange.ck = s.ck :=
    calc (s.putTrailer.setErr 0#4).checksumRange.ck
      _ = s.putTrailer.checksumRange.ck := State.checksumRange_ck_congr rfl rfl fun _ _ => rfl
      _ = s.checksumRange.ck := s.checksumRange_putTrailer_ck
      _ = s.ck := hck.symm
  have hstored : (s.putTrailer.setErr 0#4).storedTrailer = s.ck := s.storedTrailer_putTrailer
  have hexec := exec_ckvfy hrunning hroom
  rw [if_pos (hstored.trans hsum.symm)] at hexec
  exact ⟨_, hexec, stErr_stWithErr _ _, (stFatal_stWithErr _ _).trans hrunning, hsum⟩

/-- CKRANGE and CKVFY inside the buffer leave the checksum of the range in `CK` and reseed (R71, R73). -/
theorem exec_checksum (hf : s.isFatal = false) (hi : i = .ckrange ∧ n = 0 ∨ i = .ckvfy ∧ n = 2)
    (hb : s.trailerAt + n ≤ s.bufSize) : ∃ e, exec i s = .next (s.checksumRange.setErr e) := by
  obtain ⟨rfl, rfl⟩ | ⟨rfl, rfl⟩ := hi
  · exact ⟨0#4, (Effect.ckrange hb).exec_eq hf nofun⟩
  · exact ⟨_, exec_ckvfy hf hb⟩

end Commands

/-! ### Streams over the buffer (R69, R71) -/

section Pieces

variable {s t : State}

/-- The open stream: the accumulators and `CNT`. -/
def State.stream (s : State) : Sums × BitVec 5 := (s.sums, s.cnt)

/-- Absorbing depends on the open stream alone. -/
theorem State.absorb_stream_congr (h : s.stream = t.stream) (b : Byte) :
    (s.absorb b).stream = (t.absorb b).stream := by
  obtain ⟨hsums, hcnt⟩ := Prod.mk.inj h
  by_cases hfull : s.cnt = 19#5
  · rw [State.absorb_full hfull, State.absorb_full (hcnt ▸ hfull), hsums]
    rfl
  · rw [State.absorb_not_full hfull, State.absorb_not_full (hcnt ▸ hfull), hsums, hcnt]
    rfl

theorem State.absorbAll_stream_congr (h : s.stream = t.stream) (bs : List Byte) :
    (s.absorbAll bs).stream = (t.absorbAll bs).stream := by
  induction bs generalizing s t with
  | nil => exact h
  | cons b bs ih => exact ih (State.absorb_stream_congr h b)

/-- SETOFF, SETLEN and CKABS of a range inside the buffer, before any other commands. -/
theorem runAll_absorbRange (hf : s.isFatal = false) (o l : BitVec 24) (hb : o.toNat + l.toNat ≤ s.bufSize) :
    ∃ t, (∀ is, runAll (.setoff o :: .setlen l :: .ckabs :: is) s = runAll is t) ∧ t.isFatal = false ∧
      stErr t.st = 0#4 ∧ t.buf = s.buf ∧ t.bufSize = s.bufSize ∧
      t.stream = (s.absorbAll (s.memRead o.toNat l.toNat)).stream := by
  have hrunning : (s.setRange o l).isFatal = false :=
    Effect.running (.setlen l) (Effect.running (.setoff o) hf 0#4) 0#4
  have habs : Effect (s.setRange o l) .ckabs _ := .ckabs hb
  have hkeeps := habs.keepsUnnamed
  have hbuf : (s.setRange o l).buf = s.buf := rfl
  refine ⟨_, fun is => (runAll_setRange hf o l _).trans (habs.runAll_cons hrunning nofun is), habs.running hrunning _,
    stErr_stWithErr _ _, hkeeps.buf rfl, hkeeps.bufSize, ?_⟩
  have hread : (s.setRange o l).memRead o.toNat l.toNat = s.memRead o.toNat l.toNat := State.memRead_congr hbuf _ _
  have hstream : (s.setRange o l).stream = s.stream := rfl
  exact hread ▸ State.absorbAll_stream_congr hstream _

/-- A stream from the seed to its end is a checksum, whatever is written to `ERR` on the way. -/
theorem State.finish_absorbAll_reseed (s : State) (e : BitVec 4) (bs : List Byte) :
    (((s.reseed.setErr e).absorbAll bs).setErr e).finish.setErr e = (s.setCk (fletcher bs)).reseed.setErr e := by
  have hck : ((s.reseed.setErr e).absorbAll bs).finish.ck = fletcher bs := State.absorbAll_finish_ck bs rfl rfl rfl
  have hst : stWithErr (stWithErr (stWithErr s.st e) e) e = stWithErr s.st e := by
    rw [stWithErr_stWithErr, stWithErr_stWithErr]
  rw [← hck, State.absorbAll_eq_setAcc]
  exact congrArg (State.setSt _) hst

/-- CKINIT, CKABS and CKFIN are CKRANGE (R71). -/
theorem runAll_ckinit_ckabs_ckfin (hf : s.isFatal = false) (hb : s.trailerAt ≤ s.bufSize) :
    runAll [.ckinit, .ckabs, .ckfin] s = runAll [.ckrange] s := by
  have hinit : Effect s .ckinit s.reseed := .ckinit
  have habs : Effect (s.reseed.setErr 0#4) .ckabs ((s.reseed.setErr 0#4).absorbAll _) := .ckabs hb
  have hsum : Effect s .ckrange s.checksumRange := .ckrange hb
  have hrunning := hinit.running hf 0#4
  have hread : (s.reseed.setErr 0#4).memRead s.off.toNat s.len.toNat = s.memRead s.off.toNat s.len.toNat :=
    State.memRead_congr (s := s.reseed.setErr 0#4) (t := s) rfl _ _
  rw [hinit.runAll_cons hf nofun, habs.runAll_cons hrunning nofun,
    Effect.ckfin.runAll_cons (habs.running hrunning _) nofun, hsum.runAll_cons hf nofun, State.finish_absorbAll_reseed]
  exact congrArg (fun bs => runAll [] ((s.setCk (fletcher bs)).reseed.setErr 0#4)) hread

end Pieces

/-! ### The obligations of the family -/

/-- Settles O5: the effect of CKINIT is the reseed. -/
theorem ckinitReseeds : Obligations.CkinitReseeds :=
  ⟨decode_encode .ckinit, fun _ hf => Effect.ckinit.exec_next hf nofun⟩

/-- Settles O6: the chunk is full exactly when `CNT` is 19. -/
theorem ckbAbsorbsByte : Obligations.CkbAbsorbsByte := by
  intro imm
  refine ⟨encode_ckb imm ▸ decode_encode (.ckb imm), fun s hf => ?_⟩
  refine ((Effect.ckb imm).exec_next hf nofun).trans ?_
  by_cases hfull : s.cnt = 19#5
  · rw [State.absorb_full hfull, if_pos hfull]
    rfl
  · rw [State.absorb_not_full hfull, if_neg hfull]
    rfl

/-- Settles O7: absorbing changes the accumulators and `CNT` alone. -/
theorem ckabsAbsorbsRange : Obligations.CkabsAbsorbsRange := by
  refine ⟨decode_encode .ckabs, fun s hf => ⟨fun hb => ?_, exec_bufferTooSmall hf rfl rfl⟩⟩
  refine ((Effect.ckabs hb).exec_next hf nofun).trans ?_
  rw [State.absorbAll_eq_setAcc, ← rangeBytes_eq_memRead]
  rfl

/-- Settles O8, by whether a chunk is open. -/
theorem ckfinFoldsAndReseeds : Obligations.CkfinFoldsAndReseeds := by
  refine ⟨decode_encode .ckfin, fun s hf => ?_⟩
  refine (Effect.ckfin.exec_next hf nofun).trans ?_
  rw [State.finish_eq, State.finish_ck]
  by_cases hcnt : s.cnt = 0#5
  · simp only [State.closed_of_chunkStart hcnt, if_pos hcnt]
    rfl
  · simp only [State.closed_of_open hcnt, if_neg hcnt]
    rfl

/-- Settles O9; that it is CKINIT, CKABS and CKFIN is R63. -/
theorem ckrangeIsFletcherOfRange : Obligations.CkrangeIsFletcherOfRange := by
  refine ⟨decode_encode .ckrange, fun s hf => ⟨fun hb => ⟨?_, ?_⟩, exec_bufferTooSmall hf rfl rfl⟩⟩
  · refine ((Effect.ckrange hb).exec_next hf nofun).trans ?_
    rw [rangeBytes_eq_memRead]
    rfl
  · exact runAll_ckinit_ckabs_ckfin hf hb

/-- Settles O10: the wire write is of `CK`, low byte first. -/
theorem ckputAppendsTrailer : Obligations.CkputAppendsTrailer := by
  refine ⟨decode_encode .ckput, fun s hf => ⟨fun hb => ?_, exec_bufferTooSmall (n := s.len.toNat + 2) hf rfl rfl⟩⟩
  refine ⟨_, (Effect.ckput hb).exec_next hf nofun, ?_, State.bufByte_putTrailer s⟩
  exact congrArg (fun t : State => { t with st := s.st &&& 0xF0#8 }) s.putTrailer_eq_setBuf

/-- Settles O11: the 2-byte wire read is the stored trailer. -/
theorem ckvfyComparesTrailer : Obligations.CkvfyComparesTrailer := by
  refine ⟨decode_encode .ckvfy, fun s hf => ⟨fun hb => ?_, exec_bufferTooSmall (n := s.len.toNat + 2) hf rfl rfl⟩⟩
  rw [exec_ckvfy hf hb, rangeBytes_eq_memRead, State.setErr, apply_ite (stWithErr _), stWithErr_zero,
    stWithErr_checksumMismatch]
  rfl

/-- Settles O40: `absorb` folds where R62's loop over the chunks does. -/
theorem streamComputesFletcher : Obligations.StreamComputesFletcher := fun _ bs h1 h2 hcnt =>
  State.absorbAll_finish_ck bs h1 h2 hcnt

/-- Settles O41: modulo 255 a fold changes nothing and the seed is 0. -/
theorem fletcherClosedForm : Obligations.FletcherClosedForm := fletcher_bytes

/-- Settles O42: the final fold leaves two bytes, which a fold keeps. -/
theorem thirdFoldIsIdentity : Obligations.ThirdFoldIsIdentity := fun bs =>
  (seed_bounded.chunkLoop bs.length bs).fold_fold

/-- Settles O43, from the closed form. -/
theorem singleBitErrorsAreDetected : Obligations.SingleBitErrorsAreDetected :=
  ⟨fun bs cs b _ => fletcher_flipBit_low_ne bs cs b, fletcher_zero_eq_ones, 1#8, 2#8, by decide⟩

/-- Settles O44: the flip changes the checksum and leaves the stored trailer alone. -/
theorem flippedBitFailsVerification : Obligations.FlippedBitFailsVerification := by
  intro s t i k hf hb hi hk hexec herr
  have hmatch : s.storedTrailer = s.checksumRange.ck := by
    obtain rfl := Host.Outcome.next.inj ((exec_ckvfy hf hb).symm.trans hexec)
    rw [State.setErr_st, stErr_stWithErr] at herr
    exact of_not_not fun hne => by simp [hne, ErrCode.code] at herr
  have hne : fletcher _ ≠ s.checksumRange.ck := s.fletcher_memRead_flipBit_ne s.off.toNat hi hk
  refine ⟨_, exec_ckvfy hf hb, ?_, (stFatal_stWithErr _ _).trans hf⟩
  rw [State.setErr_st, stErr_stWithErr, State.storedTrailer_setByte (Nat.add_lt_add_left hi _), hmatch]
  exact if_neg hne.symm

/-- Settles O45: the trailer that CKPUT writes lies outside the range it was computed of. -/
theorem sealedRangeVerifies : Obligations.SealedRangeVerifies := by
  intro s hf hb
  have hsum : Effect s .ckrange s.checksumRange := .ckrange (Nat.le_of_add_right_le hb)
  have hck : (s.checksumRange.setErr 0#4).ck = (s.checksumRange.setErr 0#4).checksumRange.ck :=
    State.checksumRange_ck_congr rfl rfl fun _ _ => rfl
  obtain ⟨t, hexec, herr, hrunning, htck⟩ := exec_ckvfy_putTrailer (hsum.running hf 0#4) hb hck
  exact ⟨_, t, runAll_ckrange_ckput hf hb, hexec, herr, hrunning, htck.trans (State.putTrailer_ck _).symm⟩

/-- Settles O46: absorbing two lists in turn is absorbing the one after the other. -/
theorem streamFeedsInPieces : Obligations.StreamFeedsInPieces := by
  intro s o n m p q hf hp hq hb
  obtain ⟨t, hrunt, hft, -, hbuf, hsize, hstream⟩ := runAll_absorbRange hf o n (by omega)
  obtain ⟨u, hrunu, -, herru, -, -, hstreamu⟩ := runAll_absorbRange (o := p) (l := m) hft (by omega)
  obtain ⟨v, hrunv, -, herrv, -, -, hstreamv⟩ := runAll_absorbRange (o := o) (l := q) hf (by omega)
  have hread : t.memRead p.toNat m.toNat = s.memRead (o.toNat + n.toNat) m.toNat :=
    hp ▸ State.memRead_congr hbuf _ _
  have huv : u.stream = v.stream :=
    calc u.stream
      _ = (t.absorbAll (t.memRead p.toNat m.toNat)).stream := hstreamu
      _ = ((s.absorbAll (s.memRead o.toNat n.toNat)).absorbAll (s.memRead (o.toNat + n.toNat) m.toNat)).stream :=
        hread ▸ State.absorbAll_stream_congr hstream _
      _ = (s.absorbAll (s.memRead o.toNat q.toNat)).stream := by rw [hq, State.memRead_append, State.absorbAll_append]
      _ = v.stream := hstreamv.symm
  exact ⟨u, v, (hrunt _).trans (hrunu []), hrunv [], congrArg (·.1.a1) huv, congrArg (·.1.a2) huv, congrArg (·.2) huv,
    herru, herrv⟩

/-- Settles O47: the checksum reads the range's bytes and no other state. -/
theorem checksumKeepsNoState : Obligations.ChecksumKeepsNoState := by
  refine ⟨fun s s' hf hf' hoff hlen hbytes i n hi hb hb' => ?_, fun s hf =>
    ⟨_, Effect.ckfin.exec_eq hf nofun, rfl, rfl, rfl⟩⟩
  obtain ⟨e, ht⟩ := exec_checksum hf hi hb
  obtain ⟨e', ht'⟩ := exec_checksum hf' hi hb'
  refine ⟨_, _, ht, ht', ?_, rfl, rfl, rfl⟩
  exact State.checksumRange_ck_congr hoff hlen hbytes

end Sys2Proof.Machine

/-! PROOFS of the family spec/41_byteorder.md: the bytes of numbers and of `D`, native and wire accesses byte by byte,
the seven byte-order commands, what depends on the host, and normalizing a struct in any order. -/

namespace Sys2Proof.Machine

open Sys2Proof.Claims

/-! ### Bytes of numbers (R9, R10) -/

section NumberBytes

variable {w v i : Nat}

/-- A number's byte `i` is the entry `i` of its byte list. -/
theorem byte_eq_of_bytesLe {bs : List Byte} {b : Byte} (h : bytesLe v w = bs) (hi : i < w) (hb : bs[i]? = some b) :
    BitVec.ofNat 8 (v / 256 ^ i) = b :=
  Option.some.inj ((bytesLe_getElem? v w i hi).symm.trans (h ▸ hb))

theorem bytesLe_bswapNat (w v : Nat) : bytesLe (bswapNat w v) w = (bytesLe v w).reverse :=
  List.reverse_eq_iff.1 (bytesBe_bswapNat v w)

/-- Swapping twice keeps the low `w` bytes. -/
theorem bswapNat_bswapNat (w v : Nat) : bswapNat w (bswapNat w v) = v % 256 ^ w := by
  rw [bswapNat, bytesLe_bswapNat, List.reverse_reverse, leNat_bytesLe]

theorem bswapNat_one (v : Nat) : bswapNat 1 v = v % 256 := leNat_bytesLe v 1

theorem bswapNat_byte (hi : i < w) (v : Nat) :
    BitVec.ofNat 8 (bswapNat w v / 256 ^ i) = BitVec.ofNat 8 (v / 256 ^ (w - 1 - i)) := by
  refine byte_eq_of_bytesLe (bytesLe_bswapNat w v) hi ?_
  rw [List.getElem?_reverse (by rwa [bytesLe_length]), bytesLe_length, bytesLe_getElem? v w _ (by omega)]

/-- Where byte `i` of a normalized number comes from. -/
theorem normalizeNat_byte (be : Bool) (hi : i < w) (v : Nat) :
    BitVec.ofNat 8 (normalizeNat be w v / 256 ^ i) =
      BitVec.ofNat 8 (v / 256 ^ (if be = true then w - 1 - i else i)) := by
  cases be with
  | false => rfl
  | true => exact bswapNat_byte hi v

theorem normalizeNat_lt (be : Bool) (hv : v < 256 ^ w) : normalizeNat be w v < 256 ^ w := by
  cases be with
  | false => exact hv
  | true => exact bswapNat_lt w v

theorem normalizeNat_normalizeNat (be : Bool) (hv : v < 256 ^ w) : normalizeNat be w (normalizeNat be w v) = v := by
  cases be with
  | false => rfl
  | true => exact (bswapNat_bswapNat w v).trans (Nat.mod_eq_of_lt hv)

end NumberBytes

/-! ### Bytes of `D` (R14) -/

section RegisterBytes

variable {w v i : Nat} {d x y : BitVec 64}

theorem dByte_eq_ofNat (d : BitVec 64) (i : Nat) : dByte d i = BitVec.ofNat 8 (d.toNat / 256 ^ i) :=
  (ofNat_div_pow_eq_extractLsb' d i).symm

theorem getLsbD_byte (n i j : Nat) (hj : j < 8) :
    (BitVec.ofNat 8 (n / 256 ^ i)).getLsbD j = n.testBit (8 * i + j) := by
  have hpow : 256 ^ i = 2 ^ (8 * i) := (Nat.pow_mul 2 8 i).symm
  rw [BitVec.getLsbD_ofNat, hpow, Nat.testBit_div_two_pow, Nat.add_comm, decide_eq_true hj, Bool.true_and]

theorem getLsbD_dByte (d : BitVec 64) (i j : Nat) (hj : j < 8) : (dByte d i).getLsbD j = d.getLsbD (8 * i + j) := by
  rw [dByte, BitVec.getLsbD_extractLsb', decide_eq_true hj, Bool.true_and]

/-- A register is its 8 bytes. -/
theorem eq_of_dByte_eq (h : ∀ i < 8, dByte x i = dByte y i) : x = y := by
  refine BitVec.eq_of_getLsbD_eq fun n hn => ?_
  have hj : n % 8 < 8 := Nat.mod_lt n (by decide)
  rw [← Nat.div_add_mod n 8, ← getLsbD_dByte x _ _ hj, ← getLsbD_dByte y _ _ hj, h (n / 8) (by omega)]

theorem dByte_ofNat (hi : i < 8) (v : Nat) : dByte (BitVec.ofNat 64 v) i = BitVec.ofNat 8 (v / 256 ^ i) := by
  refine BitVec.eq_of_getLsbD_eq fun j hj => ?_
  rw [getLsbD_dByte _ _ _ hj, getLsbD_byte _ _ _ hj, BitVec.getLsbD_ofNat, decide_eq_true (by omega), Bool.true_and]

/-- A number of `w` bytes in `D` is zero-extended. -/
theorem dByte_ofNat_of_lt (hi : i < 8) (hv : v < 256 ^ w) :
    dByte (BitVec.ofNat 64 v) i = if i < w then BitVec.ofNat 8 (v / 256 ^ i) else 0#8 := by
  rw [dByte_ofNat hi]
  split_ifs with hiw
  · rfl
  · have hlt : v < 256 ^ i := lt_of_lt_of_le hv (Nat.pow_le_pow_right (by decide) (Nat.not_lt.1 hiw))
    rw [Nat.div_eq_of_lt hlt]

/-- The bytes of `D` after its low `w` bytes are written (R82). -/
theorem dByte_withLowBytes (hi : i < 8) (w : Nat) (d : BitVec 64) (v : Nat) :
    dByte (withLowBytes w d v) i = if i < w then BitVec.ofNat 8 (v / 256 ^ i) else dByte d i := by
  refine BitVec.eq_of_getLsbD_eq fun j hj => ?_
  rw [withLowBytes, dByte_ofNat hi, getLsbD_byte _ _ _ hj, Nat.mul_comm,
    Nat.testBit_two_pow_mul_add _ (Nat.mod_lt _ (Nat.two_pow_pos _))]
  split_ifs with hbit hbyte hbyte
  · rw [getLsbD_byte _ _ _ hj, Nat.testBit_mod_two_pow, decide_eq_true hbit, Bool.true_and]
  · omega
  · omega
  · rw [Nat.testBit_div_two_pow, Nat.sub_add_cancel (by omega), getLsbD_dByte _ _ _ hj, BitVec.getLsbD]

theorem lowBytes_lt (w : Nat) (d : BitVec 64) : lowBytes w d < 256 ^ w := by
  rw [lowBytes, Nat.pow_mul]
  exact Nat.mod_lt _ (Nat.pow_pos (by decide))

theorem lowBytes_byte (hi : i < w) (d : BitVec 64) : BitVec.ofNat 8 (lowBytes w d / 256 ^ i) = dByte d i := by
  have hlow : bytesLe (lowBytes w d) w = bytesLe d.toNat w := by
    rw [lowBytes, Nat.pow_mul]
    exact bytesLe_mod d.toNat w
  rw [dByte_eq_ofNat]
  exact byte_eq_of_bytesLe hlow hi (bytesLe_getElem? d.toNat w i hi)

/-- `D` after BSWAP (`be` true) and after NORM (`be` the strap): its low `w` bytes normalized. -/
def normalizeD (be : Bool) (w : Nat) (d : BitVec 64) : BitVec 64 :=
  withLowBytes w d (normalizeNat be w (lowBytes w d))

/-- Where the bytes of a normalized `D` come from. -/
theorem dByte_normalizeD (be : Bool) (w : Nat) (d : BitVec 64) (hi : i < 8) :
    dByte (normalizeD be w d) i = dByte d (if be = true ∧ i < w then w - 1 - i else i) := by
  rw [normalizeD, dByte_withLowBytes hi]
  by_cases hiw : i < w
  · rw [if_pos hiw, normalizeNat_byte be hiw, lowBytes_byte (by split_ifs <;> omega)]
    simp only [hiw, and_true]
  · rw [if_neg hiw, if_neg fun h => hiw h.2]

theorem normalizeD_false (w : Nat) (d : BitVec 64) : normalizeD false w d = d :=
  eq_of_dByte_eq fun i hi => by simp [dByte_normalizeD _ _ _ hi]

/-- Normalizing twice moves every byte of `D` back (R89). -/
theorem normalizeD_normalizeD (be : Bool) (hw : w ≤ 8) (d : BitVec 64) :
    normalizeD be w (normalizeD be w d) = d := by
  refine eq_of_dByte_eq fun i hi => ?_
  rw [dByte_normalizeD _ _ _ hi, dByte_normalizeD _ _ _ (by split_ifs <;> omega)]
  congr 1
  cases be with
  | false => rfl
  | true =>
    simp only [true_and]
    split_ifs <;> omega

theorem lowBytes_withLowBytes (hw : w ≤ 8) (d : BitVec 64) (v : Nat) :
    lowBytes w (withLowBytes w d v) = v % 256 ^ w := by
  have hdvd : 2 ^ (8 * w) ∣ 2 ^ 64 := Nat.pow_dvd_pow 2 (by omega)
  rw [lowBytes, withLowBytes, BitVec.toNat_ofNat, Nat.mod_mod_of_dvd _ hdvd, Nat.mul_add_mod', Nat.mod_mod, Nat.pow_mul]

theorem lowBytes_normalizeD (be : Bool) (hw : w ≤ 8) (d : BitVec 64) :
    lowBytes w (normalizeD be w d) = normalizeNat be w (lowBytes w d) := by
  rw [normalizeD, lowBytes_withLowBytes hw, Nat.mod_eq_of_lt (normalizeNat_lt be (lowBytes_lt w d))]

/-- Normalizing a zero-extended operand normalizes its number. -/
theorem normalizeD_ofNat (be : Bool) (hw : w ≤ 8) (hv : v < 256 ^ w) :
    normalizeD be w (BitVec.ofNat 64 v) = BitVec.ofNat 64 (normalizeNat be w v) := by
  have hle : 256 ^ w ≤ 2 ^ 64 := Nat.pow_le_pow_right (n := 256) (by decide) hw
  have hnorm := normalizeNat_lt be hv
  rw [normalizeD, lowBytes, withLowBytes, BitVec.toNat_ofNat, Nat.mod_eq_of_lt (lt_of_lt_of_le hv hle), Nat.pow_mul,
    Nat.div_eq_of_lt hv, Nat.mod_eq_of_lt hv, Nat.mod_eq_of_lt hnorm, Nat.zero_mul, Nat.zero_add]

end RegisterBytes

/-! ### Native and wire accesses byte by byte (R34, R35) -/

section Accesses

variable {s : State} {w i : Nat}

theorem State.wireRead_lt (s : State) (a w : Nat) : s.wireRead a w < 256 ^ w :=
  normalizeNat_lt s.hostBE (s.nativeRead_lt a w)

theorem State.wireRead_byte (hi : i < w) (s : State) (a : Nat) :
    BitVec.ofNat 8 (s.wireRead a w / 256 ^ i) = s.bufByte (a + i) := by
  have hbytes := bytesLe_leNat (s.memRead a w)
  rw [State.memRead_length, ← State.wireRead_eq_leNat] at hbytes
  exact byte_eq_of_bytesLe hbytes hi (s.memRead_getElem? a w i hi)

/-- The host's own load is a wire load, normalized. -/
theorem State.nativeRead_eq_normalizeNat (s : State) (a w : Nat) :
    s.nativeRead a w = normalizeNat s.hostBE w (s.wireRead a w) :=
  (normalizeNat_normalizeNat s.hostBE (s.nativeRead_lt a w)).symm

/-- `D` after LDF: the bytes of the field, zero-extended (R87). -/
theorem dByte_wireRead (hi : i < 8) (s : State) (a w : Nat) :
    dByte (BitVec.ofNat 64 (s.wireRead a w)) i = if i < w then s.bufByte (a + i) else 0#8 := by
  rw [dByte_ofNat_of_lt hi (s.wireRead_lt a w)]
  split_ifs with hiw
  · exact s.wireRead_byte hiw a
  · rfl

/-- `D` after LDN: the bytes of the field in the host's order, zero-extended (R85). -/
theorem dByte_nativeRead (hi : i < 8) (s : State) (a w : Nat) :
    dByte (BitVec.ofNat 64 (s.nativeRead a w)) i =
      if i < w then (if s.hostBE = true then s.bufByte (a + (w - 1 - i)) else s.bufByte (a + i)) else 0#8 := by
  rw [dByte_ofNat_of_lt hi (s.nativeRead_lt a w), State.nativeRead_eq_normalizeNat]
  split_ifs with hiw hbe
  · rw [normalizeNat_byte _ hiw, if_pos hbe, s.wireRead_byte (by omega)]
  · rw [normalizeNat_byte _ hiw, if_neg hbe, s.wireRead_byte hiw]
  · rfl

/-- The host's own store is a wire store, normalized. -/
theorem State.nativeWrite_eq_wireWrite (s : State) (a w v : Nat) :
    s.nativeWrite a w v = s.wireWrite a w (normalizeNat s.hostBE w v) := by
  rw [State.wireWrite_eq_memWrite, State.nativeWrite, normalizeNat]
  split_ifs
  · rw [bytesLe_bswapNat, bytesBe]
  · rfl

/-- What STF leaves at each address (R88). -/
theorem State.bufByte_wireWrite_lowBytes (s : State) (a w : Nat) (d : BitVec 64) (x : Nat) :
    (s.wireWrite a w (lowBytes w d)).bufByte x =
      if a ≤ x ∧ x < a + w then dByte d (x - a) else s.bufByte x := by
  rw [State.bufByte_wireWrite]
  split_ifs with hx
  · rw [lowBytes_byte (by omega)]
  · rfl

/-- What STN leaves at each address (R86). -/
theorem State.bufByte_nativeWrite_lowBytes (s : State) (a w : Nat) (d : BitVec 64) (x : Nat) :
    (s.nativeWrite a w (lowBytes w d)).bufByte x =
      if a ≤ x ∧ x < a + w then
        (if s.hostBE = true then dByte d (w - 1 - (x - a)) else dByte d (x - a))
      else s.bufByte x := by
  rw [State.nativeWrite_eq_wireWrite, State.bufByte_wireWrite]
  split_ifs with hx hbe
  · rw [normalizeNat_byte _ (by omega), if_pos hbe, lowBytes_byte (by omega)]
  · rw [normalizeNat_byte _ (by omega), if_neg hbe, lowBytes_byte (by omega)]
  · rfl

theorem State.normalizeField_littleEndian (hbe : s.hostBE = false) (a w : Nat) : s.normalizeField a w = s :=
  if_neg (ne_true_of_eq_false hbe)

theorem State.normalizeField_bigEndian (hbe : s.hostBE = true) (a w : Nat) :
    s.normalizeField a w = s.memWrite a (s.memRead a w).reverse := if_pos hbe

/-- The host's own load of a normalized field loads what a wire load does. -/
theorem State.nativeRead_normalizeField (s : State) (a w : Nat) :
    (s.normalizeField a w).nativeRead a w = s.wireRead a w := by
  rw [State.wireRead_eq_leNat, State.nativeRead]
  cases hbe : s.hostBE with
  | false => rw [State.normalizeField_littleEndian hbe, hbe, if_neg Bool.false_ne_true]
  | true =>
    have hhost : (s.memWrite a (s.memRead a w).reverse).hostBE = true :=
      (State.hostBE_congr (s.memWrite_cfg a _)).trans hbe
    have hread := s.memRead_memWrite a (s.memRead a w).reverse
    rw [List.length_reverse, State.memRead_length] at hread
    rw [State.normalizeField_bigEndian hbe, hhost, if_pos rfl, hread, beNat, List.reverse_reverse]

/-! ### What an access leaves alone, and what may come before or after it -/

@[simp] theorem State.nativeRead_setErr (s : State) (e : BitVec 4) (a n : Nat) :
    (s.setErr e).nativeRead a n = s.nativeRead a n := by
  rw [State.nativeRead, State.nativeRead, State.hostBE_congr (s := s.setErr e) (t := s) rfl,
    State.memRead_congr (s := s.setErr e) (t := s) rfl]

theorem State.setErr_zero_eq (s : State) : s.setErr 0#4 = { s with st := s.st &&& 0xF0#8 } :=
  congrArg s.setSt (stWithErr_zero s.st)

theorem State.setErr_setErr (s : State) (e e' : BitVec 4) : (s.setErr e).setErr e' = s.setErr e' :=
  congrArg s.setSt (stWithErr_stWithErr s.st e e')

theorem stFatal_mask (st : BitVec 8) : stFatal (st &&& 0xF0#8) = stFatal st := by
  rw [← stWithErr_zero, stFatal_stWithErr]

/-- A range write may be made before or after a change that leaves the buffer alone. -/
theorem State.memWrite_comm {f : State → State} (hf : ∀ s a b, (f s).setByte a b = f (s.setByte a b)) (s : State)
    (a : Nat) (bs : List Byte) : (f s).memWrite a bs = f (s.memWrite a bs) := by
  induction bs generalizing s a with
  | nil => rfl
  | cons b bs ih => rw [State.memWrite, hf, ih, State.memWrite]

/-- What STF does to the buffer: the low `n` bytes of `D` as a wire field at `OFF` (R88). -/
def State.storeField (s : State) (n : Nat) : State := s.wireWrite s.off.toNat n (lowBytes n s.d)

@[simp] theorem State.storeField_d (s : State) (n : Nat) : (s.storeField n).d = s.d := by
  rw [State.storeField, State.wireWrite_eq_memWrite, State.memWrite_d]

@[simp] theorem State.storeField_hostBE (s : State) (n : Nat) : (s.storeField n).hostBE = s.hostBE := by
  rw [State.storeField, State.wireWrite_eq_memWrite]
  exact State.hostBE_congr (s.memWrite_cfg _ _)

theorem State.bufByte_storeField (s : State) (n x : Nat) :
    (s.storeField n).bufByte x =
      if s.off.toNat ≤ x ∧ x < s.off.toNat + n then dByte s.d (x - s.off.toNat) else s.bufByte x :=
  s.bufByte_wireWrite_lowBytes s.off.toNat n s.d x

/-- The host's own store of `D`, once normalized, stores the wire field. -/
theorem State.nativeWrite_normalizeD (s : State) {n : Nat} (hn : n ≤ 8) (d : BitVec 64) :
    ((s.setD d).setErr 0#4).nativeWrite s.off.toNat n (lowBytes n (normalizeD s.hostBE n s.d)) =
      ((s.storeField n).setD d).setErr 0#4 := by
  rw [lowBytes_normalizeD _ hn]
  calc ((s.setD d).setErr 0#4).wireWrite s.off.toNat n (lowBytes n s.d)
    _ = ((s.setD d).setErr 0#4).memWrite s.off.toNat (bytesLe (lowBytes n s.d) n) := State.wireWrite_eq_memWrite _ _ _ _
    _ = ((s.memWrite s.off.toNat (bytesLe (lowBytes n s.d) n)).setD d).setErr 0#4 :=
      State.memWrite_comm (f := fun t => (t.setD d).setErr 0#4) (fun _ _ _ => rfl) s _ _
    _ = ((s.storeField n).setD d).setErr 0#4 := by rw [State.storeField, State.wireWrite_eq_memWrite]

end Accesses

/-! ### The byte-order commands -/

section Commands

variable {s t u : State} {i : Instr} {w : BitVec 8} {v : Width}

/-- The word of a command whose operand is a byte (R50, R51) is its opcode's word with the byte in bits 7:0. -/
theorem byteWord_eq_or (o b : BitVec 8) : o ++ (0#16 ++ b) = (o ++ 0#24) ||| b.setWidth 32 := by
  have hbyte : b.setWidth 32 = 0#8 ++ (0#16 ++ b) := by
    revert b
    decide
  rw [hbyte, BitVec.or_append, BitVec.or_zero, BitVec.zero_or]

theorem decode_byteWord {o b : BitVec 8} {c : CmdWord} (hi : encode i = o ++ (0#16 ++ b)) (hc : o ++ 0#24 = c) :
    decode (c ||| b.setWidth 32) = .ok i := by
  rw [← hc, ← byteWord_eq_or, ← hi, decode_encode]

theorem exists_width (hw : legalWidth w = true) : ∃ v, Width.ofField w = some v ∧ v.bytes = w.toNat := by
  obtain ⟨v, hv⟩ := Option.isSome_iff_exists.1 ((Width_ofField_isSome w).trans hw)
  exact ⟨v, hv, Width_ofField_bytes hv⟩

/-- R81: a width that is not legal. -/
theorem exec_badWidth (hf : s.isFatal = false) (hw : i.widthLegal = false) :
    exec i s = .next (s.setSt ((s.st &&& 0x0F#8) ||| 0x90#8)) := by
  suffices hissue : exec i s = s.issue (.fatal .badWidth) from hissue.trans (State.issue_badWidth hf)
  cases i with
  | bswap | norm | normm | ldn | stn | ldf | stf => exact congrArg s.issue (withWidth_illegal hw _)
  | _ => cases hw

/-- The two tests of NORMM, LDN, STN, LDF and STF, where one of them fails (R37, R81). -/
theorem exec_field_fails (hf : s.isFatal = false) (hw : i.widthLegal = legalWidth w) (hn : needs s i = some w.toNat) :
    (legalWidth w = true → s.bufSize < s.off.toNat + w.toNat →
      exec i s = .next (s.setSt ((s.st &&& 0xF0#8) ||| 1#8))) ∧
    (legalWidth w = false → exec i s = .next (s.setSt ((s.st &&& 0x0F#8) ||| 0x90#8))) :=
  ⟨fun hlegal => exec_bufferTooSmall hf (hw.trans hlegal) hn, fun hbad => exec_badWidth hf (hw.trans hbad)⟩

/-- A command that writes `BUF` and succeeds changes it and `ST` alone. -/
theorem Effect.exec_store (hu : Effect s i u) (hf : s.isFatal = false) (hw : writesBuf i = true) :
    ∃ t, exec i s = .next t ∧ t = { s with buf := t.buf, st := s.st &&& 0xF0#8 } ∧ ∀ a, t.bufByte a = u.bufByte a := by
  have hi : i ≠ .ckvfy := by
    rintro rfl
    cases hw
  have hbuf : u = s.setBuf u.buf := by
    obtain ⟨a, bs, -, rfl⟩ := hu.eq_memWrite hw
    exact s.memWrite_eq_setBuf a bs
  exact ⟨_, hu.exec_next hf hi, congrArg (fun u : State => { u with st := s.st &&& 0xF0#8 }) hbuf, fun _ => rfl⟩

theorem Effect.bswap_normalizeD (hv : Width.ofField w = some v) :
    Effect s (.bswap w) (s.setD (normalizeD true v.bytes s.d)) := .bswap hv

theorem Effect.norm_normalizeD (hv : Width.ofField w = some v) :
    Effect s (.norm w) (s.setD (normalizeD s.hostBE v.bytes s.d)) := .norm hv

theorem Effect.stf_storeField (hv : Width.ofField w = some v) (hb : s.off.toNat + v.bytes ≤ s.bufSize) :
    Effect s (.stf w) (s.storeField v.bytes) := .stf hv hb

/-- BSWAP with a legal width (R82). -/
theorem exec_bswap (hf : s.isFatal = false) (hw : legalWidth w = true) :
    ∃ v, exec (.bswap w) s = .next { s with d := v, st := s.st &&& 0xF0#8 } ∧
      ∀ i < 8, dByte v i = if i < w.toNat then dByte s.d (w.toNat - 1 - i) else dByte s.d i := by
  obtain ⟨v, hv, hbytes⟩ := exists_width hw
  refine ⟨_, (Effect.bswap_normalizeD hv).exec_next hf nofun, fun i hi => ?_⟩
  rw [State.setD_d, dByte_normalizeD _ _ _ hi, apply_ite (dByte s.d), hbytes]
  simp

/-- NORM on a big-endian host (R83). -/
theorem exec_norm_eq_exec_bswap (hf : s.isFatal = false) (hw : legalWidth w = true) (hbe : s.hostBE = true) :
    exec (.norm w) s = exec (.bswap w) s := by
  obtain ⟨v, hv, -⟩ := exists_width hw
  rw [(Effect.norm_normalizeD hv).exec_eq hf nofun, (Effect.bswap_normalizeD hv).exec_eq hf nofun, hbe]

/-- What NORMM leaves at each address (R84). -/
theorem exec_normm (hf : s.isFatal = false) (hv : Width.ofField w = some v)
    (hb : s.off.toNat + v.bytes ≤ s.bufSize) :
    ∃ t, exec (.normm w) s = .next t ∧ t = { s with buf := t.buf, st := s.st &&& 0xF0#8 } ∧
      ∀ a, t.bufByte a = s.bufByte (swapInField s.hostBE s.off.toNat (0, v) a) := by
  obtain ⟨t, hexec, ht, hbyte⟩ := (Effect.normm hv hb).exec_store hf rfl
  exact ⟨t, hexec, ht, fun a => (hbyte a).trans (s.bufByte_normalizeField s.off.toNat (0, v) a)⟩

/-! ### Commands in a row (R89) -/

theorem runAll_cons_of_next (h : exec i s = .next t) (is : List Instr) : runAll (i :: is) s = runAll is t := by
  rw [runAll, h]

theorem runAll_norm (hf : s.isFatal = false) (hv : Width.ofField w = some v) (is : List Instr) :
    runAll (.norm w :: is) s = runAll is ((s.setD (normalizeD s.hostBE v.bytes s.d)).setErr 0#4) :=
  (Effect.norm_normalizeD hv).runAll_cons hf nofun is

/-- A command that normalizes `D`, given twice, leaves everything as it was but `ERR`. -/
theorem runAll_normalizeD_twice {be : Bool} (hf : s.isFatal = false) (hi : i ≠ .ckvfy)
    (hu : ∀ t : State, t.hostBE = s.hostBE → Effect t i (t.setD (normalizeD be v.bytes t.d))) :
    runAll [i, i] s = some { s with st := s.st &&& 0xF0#8 } := by
  have hfirst := hu s rfl
  have hagain := hu ((s.setD (normalizeD be v.bytes s.d)).setErr 0#4) rfl
  rw [hfirst.runAll_cons hf hi, hagain.runAll_cons (hfirst.running hf _) hi, State.setD_setErr_setD_setErr,
    State.setErr_d, State.setD_d, normalizeD_normalizeD _ (Width_bytes_pos_le v).2, runAll_nil, State.setErr_zero_eq]
  rfl

/-- LDN and then NORM is LDF. -/
theorem runAll_ldn_norm (hf : s.isFatal = false) (hv : Width.ofField w = some v)
    (hb : s.off.toNat + v.bytes ≤ s.bufSize) : runAll [.ldn w, .norm w] s = runAll [.ldf w] s := by
  have hldn : Effect s (.ldn w) _ := .ldn hv hb
  have hldf : Effect s (.ldf w) _ := .ldf hv hb
  have hd : normalizeD s.hostBE v.bytes (BitVec.ofNat 64 (s.nativeRead s.off.toNat v.bytes)) =
      BitVec.ofNat 64 (s.wireRead s.off.toNat v.bytes) :=
    normalizeD_ofNat s.hostBE (Width_bytes_pos_le v).2 (s.nativeRead_lt s.off.toNat v.bytes)
  rw [hldn.runAll_cons hf nofun, hldf.runAll_cons hf nofun, runAll_norm (hldn.running hf _) hv, State.loadD,
    State.loadD, State.setD_setErr_setD_setErr, State.setErr_d, State.setD_d, ← hd]
  rfl

/-- NORM, STN and then NORM is STF. -/
theorem runAll_norm_stn_norm (hf : s.isFatal = false) (hv : Width.ofField w = some v)
    (hb : s.off.toNat + v.bytes ≤ s.bufSize) : runAll [.norm w, .stn w, .norm w] s = runAll [.stf w] s := by
  have hw := (Width_bytes_pos_le v).2
  have hstore := s.nativeWrite_normalizeD hw (normalizeD s.hostBE v.bytes s.d)
  have hback := normalizeD_normalizeD s.hostBE hw s.d
  have hnorm : Effect s (.norm w) (s.setD (normalizeD s.hostBE v.bytes s.d)) := .norm_normalizeD hv
  generalize normalizeD s.hostBE v.bytes s.d = d at hstore hback hnorm
  have hstn : Effect ((s.setD d).setErr 0#4) (.stn w) (((s.storeField v.bytes).setD d).setErr 0#4) :=
    hstore ▸ .stn hv hb
  have hrunning := hnorm.running hf 0#4
  rw [hnorm.runAll_cons hf nofun, hstn.runAll_cons hrunning nofun, runAll_norm (hstn.running hrunning _) hv,
    (Effect.stf_storeField hv hb).runAll_cons hf nofun, State.setErr_setErr, State.setD_setErr_setD_setErr]
  have hd : normalizeD (s.storeField v.bytes).hostBE v.bytes d = (s.storeField v.bytes).d := by
    rw [State.storeField_hostBE, State.storeField_d, hback]
  exact congrArg (fun x => runAll [] (((s.storeField v.bytes).setD x).setErr 0#4)) hd

/-- A field that STF stores is loaded by LDF. -/
theorem exec_stf_ldf (hf : s.isFatal = false) (hw : legalWidth w = true) (hb : s.off.toNat + w.toNat ≤ s.bufSize) :
    ∃ t u, exec (.stf w) s = .next t ∧ exec (.ldf w) t = .next u ∧
      ∀ i < 8, dByte u.d i = if i < w.toNat then dByte s.d i else 0#8 := by
  obtain ⟨v, hv, hbytes⟩ := exists_width hw
  rw [← hbytes] at hb ⊢
  have hstf : Effect s (.stf w) (s.storeField v.bytes) := .stf_storeField hv hb
  have hoff : (s.storeField v.bytes).off = s.off := hstf.keepsUnnamed.off rfl
  have hsize : (s.storeField v.bytes).bufSize = s.bufSize := hstf.keepsUnnamed.bufSize
  have hldf : Effect ((s.storeField v.bytes).setErr 0#4) (.ldf w) _ :=
    .ldf hv (by rwa [State.setErr_off, State.setErr_bufSize, hoff, hsize])
  refine ⟨_, _, hstf.exec_eq hf nofun, hldf.exec_eq (hstf.running hf _) nofun, fun i hi => ?_⟩
  refine (dByte_wireRead hi _ _ _).trans (if_ctx_congr Iff.rfl (fun hiw => ?_) fun _ => rfl)
  refine (s.bufByte_storeField v.bytes _).trans ?_
  rw [State.setErr_off, hoff, if_pos (by omega), Nat.add_sub_cancel_left]

/-- NORMM and then LDN load what LDF loads. -/
theorem runAll_normm_ldn (hf : s.isFatal = false) (hv : Width.ofField w = some v)
    (hb : s.off.toNat + v.bytes ≤ s.bufSize) :
    ∃ t, runAll [.normm w, .ldn w] s = some t ∧ t.d = BitVec.ofNat 64 (s.wireRead s.off.toNat v.bytes) := by
  have hnormm : Effect s (.normm w) (s.normalizeField s.off.toNat v.bytes) := .normm hv hb
  have hoff : (s.normalizeField s.off.toNat v.bytes).off = s.off := hnormm.keepsUnnamed.off rfl
  have hsize : (s.normalizeField s.off.toNat v.bytes).bufSize = s.bufSize := hnormm.keepsUnnamed.bufSize
  have hldn : Effect ((s.normalizeField s.off.toNat v.bytes).setErr 0#4) (.ldn w) _ :=
    .ldn hv (by rwa [State.setErr_off, State.setErr_bufSize, hoff, hsize])
  refine ⟨_, (hnormm.runAll_cons hf nofun _).trans (hldn.runAll_cons (hnormm.running hf _) nofun []), ?_⟩
  rw [State.setErr_d, State.loadD, State.setD_d, State.setErr_off, hoff,
    State.nativeRead_setErr, State.nativeRead_normalizeField]

/-- NORMM twice moves every byte of the field back. -/
theorem runAll_normm_normm (hf : s.isFatal = false) (hv : Width.ofField w = some v)
    (hb : s.off.toNat + v.bytes ≤ s.bufSize) :
    ∃ t, runAll [.normm w, .normm w] s = some t ∧ t = { s with buf := t.buf, st := s.st &&& 0xF0#8 } ∧
      ∀ a, t.bufByte a = s.bufByte a := by
  obtain ⟨t, hexec, ht, hbyte⟩ := exec_normm hf hv hb
  have hoff : t.off = s.off := by rw [ht]
  have hsize : t.bufSize = s.bufSize := by rw [ht]
  have hbe : t.hostBE = s.hostBE := State.hostBE_congr (by rw [ht])
  have hst : t.st = s.st &&& 0xF0#8 := by rw [ht]
  have hrunning : t.isFatal = false := by rwa [State.isFatal, hst, stFatal_mask]
  obtain ⟨u, hexec', hu, hbyte'⟩ := exec_normm hrunning hv (by rwa [hoff, hsize])
  refine ⟨u, (runAll_cons_of_next hexec _).trans (runAll_cons_of_next hexec' []), ?_, fun a => ?_⟩
  · have hmask : s.st &&& 0xF0#8 &&& 0xF0#8 = s.st &&& 0xF0#8 := BitVec.and_assoc _ _ _
    rw [← hmask]
    exact hu.trans (congrArg (fun t : State => { t with buf := u.buf, st := t.st &&& 0xF0#8 }) ht)
  · rw [hbyte', hbyte, hoff, hbe, swapInField_involutive]

end Commands

/-! ### What depends on the host (R90) -/

section Host

variable {s t : State} {i : Instr} {c : BitVec 8}

/-- `CFG` with the value `c`, as on another host. -/
def State.withCfg (s : State) (c : BitVec 8) : State := { s with cfg := c }

theorem State.absorb_withCfg (s : State) (c : BitVec 8) (b : Byte) :
    (s.withCfg c).absorb b = (s.absorb b).withCfg c := by
  by_cases hfull : s.cnt = 19#5
  · rw [State.absorb_full hfull, State.absorb_full (s := s.withCfg c) hfull]
    rfl
  · rw [State.absorb_not_full hfull, State.absorb_not_full (s := s.withCfg c) hfull]
    rfl

theorem State.absorbAll_withCfg (s : State) (c : BitVec 8) (bs : List Byte) :
    (s.withCfg c).absorbAll bs = (s.absorbAll bs).withCfg c := by
  induction bs generalizing s with
  | nil => rfl
  | cons b bs ih => exact (congrArg (·.absorbAll bs) (s.absorb_withCfg c b)).trans (ih (s.absorb b))

theorem State.memRead_withCfg (s : State) (c : BitVec 8) (a n : Nat) : (s.withCfg c).memRead a n = s.memRead a n :=
  State.memRead_congr (s := s.withCfg c) (t := s) rfl a n

theorem State.wireRead_withCfg (s : State) (c : BitVec 8) (a n : Nat) :
    (s.withCfg c).wireRead a n = s.wireRead a n := by
  rw [State.wireRead_eq_leNat, State.wireRead_eq_leNat, State.memRead_withCfg]

theorem State.wireWrite_withCfg (s : State) (c : BitVec 8) (a n v : Nat) :
    (s.withCfg c).wireWrite a n v = (s.wireWrite a n v).withCfg c := by
  rw [State.wireWrite_eq_memWrite, State.wireWrite_eq_memWrite]
  exact State.memWrite_comm (f := (·.withCfg c)) (fun _ _ _ => rfl) s a _

theorem State.checksumRange_withCfg (s : State) (c : BitVec 8) :
    (s.withCfg c).checksumRange = s.checksumRange.withCfg c :=
  congrArg (fun bs => ((s.withCfg c).setCk (fletcher bs)).reseed) (s.memRead_withCfg c _ _)

theorem State.compareTrailer_withCfg (s : State) (c : BitVec 8) :
    (s.withCfg c).compareTrailer = s.compareTrailer.map (·.withCfg c) := by
  rw [State.compareTrailer, State.compareTrailer, State.wireRead_withCfg, State.checksumRange_withCfg,
    apply_ite (Ending.map _)]
  rfl

/-- The bounds test reads no register but the offset and the length it is given (R37). -/
theorem State.inBounds_withCfg {body : State → Ending} (a n : Nat)
    (h : body (s.withCfg c) = (body s).map (·.withCfg c)) :
    (s.withCfg c).inBounds a n body = (s.inBounds a n body).map (·.withCfg c) := by
  obtain ⟨hb, heq⟩ | ⟨hb, heq⟩ := s.inBounds_cases a n body
  · rw [heq, ← h]
    exact State.inBounds_pos (s := s.withCfg c) hb body
  · rw [heq]
    exact State.inBounds_neg (s := s.withCfg c) hb body

/-- The wrapper of R109 neither reads nor writes `CFG`. -/
theorem State.issue_withCfg (s : State) (e : Ending) (c : BitVec 8) :
    ∃ t, s.issue e = .next t ∧ (s.withCfg c).issue (e.map (·.withCfg c)) = .next (t.withCfg c) := by
  have hst : (s.withCfg c).isFatal = s.isFatal := rfl
  cases hf : s.isFatal with
  | true => exact ⟨s, State.issue_fatal hf e, State.issue_fatal (hst.trans hf) _⟩
  | false =>
    refine ⟨s.conclude e, State.issue_running hf e, (State.issue_running (hst.trans hf) _).trans ?_⟩
    cases e <;> rfl

/-- Any command but LDN, STN, NORM and NORMM ends alike whatever `CFG` holds. -/
theorem exec_eq_issue_withCfg (hi : hostDependent i = false) (s : State) (c : BitVec 8) :
    ∃ e, exec i s = s.issue e ∧ exec i (s.withCfg c) = (s.withCfg c).issue (e.map (·.withCfg c)) := by
  suffices hend : ∃ e e', exec i s = s.issue e ∧ exec i (s.withCfg c) = (s.withCfg c).issue e' ∧
      e' = e.map (·.withCfg c) by
    obtain ⟨e, e', he, he', rfl⟩ := hend
    exact ⟨e, he, he'⟩
  cases i with
  | nop | setoff | setlen | setd | ckinit | ckfin => exact ⟨_, _, rfl, rfl, rfl⟩
  | ckb b => exact ⟨_, _, rfl, rfl, congrArg Ending.done (s.absorb_withCfg c b)⟩
  | ckabs =>
    refine ⟨_, _, rfl, rfl, State.inBounds_withCfg _ _ (congrArg Ending.done ?_)⟩
    rw [State.absorbAll_withCfg, State.memRead_withCfg]
    rfl
  | ckrange => exact ⟨_, _, rfl, rfl, State.inBounds_withCfg _ _ (congrArg Ending.done (s.checksumRange_withCfg c))⟩
  | ckput => exact ⟨_, _, rfl, rfl, State.inBounds_withCfg _ _ (congrArg Ending.done (s.wireWrite_withCfg c _ _ _))⟩
  | ckvfy => exact ⟨_, _, rfl, rfl, State.inBounds_withCfg _ _ (s.compareTrailer_withCfg c)⟩
  | bswap w => exact ⟨_, _, rfl, rfl, withWidth_map fun _ => rfl⟩
  | ldf w =>
    refine ⟨_, _, rfl, rfl, withWidth_map fun v => State.inBounds_withCfg _ _ (congrArg Ending.done ?_)⟩
    rw [State.wireRead_withCfg]
    rfl
  | stf w =>
    exact ⟨_, _, rfl, rfl, withWidth_map fun v =>
      State.inBounds_withCfg _ _ (congrArg Ending.done (s.wireWrite_withCfg c _ _ _))⟩
  | ldn | stn | norm | normm => cases hi

theorem exec_withCfg (hi : hostDependent i = false) (h : exec i s = .next t) (c : BitVec 8) :
    exec i { s with cfg := c } = .next { t with cfg := c } := by
  obtain ⟨e, he, he'⟩ := exec_eq_issue_withCfg hi s c
  obtain ⟨u, hu, hu'⟩ := s.issue_withCfg e c
  obtain rfl : u = t := Host.Outcome.next.inj ((he.trans hu).symm.trans h)
  exact he'.trans hu'

/-- `BUF` and `D` with the two bytes 1 and 2, on which the two hosts differ. -/
def twoBytes : State := { State.reset with d := 0x0102#64, buf := [(0, 1#8), (1, 2#8)], bufSize := 2 }

end Host

/-! ### Structs in any order (R93) -/

section AnyOrder

variable {fs gs : List (Nat × Width)} {is : List Instr} {base : Nat}

/-- Fields that lie apart may be normalized in any order. -/
theorem swapInFields_perm (be : Bool) (base : Nat) (hp : fs.Perm gs) (h : fs.Pairwise fieldsApart) :
    swapInFields be base fs = swapInFields be base gs := by
  induction hp with
  | nil => rfl
  | cons f _ ih =>
    funext x
    rw [swapInFields, swapInFields, ih (List.pairwise_cons.1 h).2]
  | swap f g fs =>
    funext x
    exact swapInField_comm ((List.pairwise_cons.1 h).1 f List.mem_cons_self) _
  | trans hp _ ih ih' => exact (ih h).trans (ih' (hp.pairwise h fun hfg => hfg.symm))

/-- A table has an expansion when each of its fields has an offset that SETOFF can spell. -/
theorem exists_normalizeFields_iff :
    (∃ is, normalizeFields base fs = some is) ↔ ∀ f ∈ fs, operandFits 24 (base + f.1) = true := by
  induction fs with
  | nil => simp [normalizeFields]
  | cons f fs ih =>
    rw [List.forall_mem_cons, ← ih]
    constructor
    · rintro ⟨is, his⟩
      obtain ⟨o, js, -, ho, hjs⟩ := normalizeFields_cons_eq_some his
      exact ⟨ho ▸ decide_eq_true o.isLt, js, hjs⟩
    · rintro ⟨hfits, js, hjs⟩
      exact ⟨_, by rw [normalizeFields, asmSetoff, if_pos hfits, hjs]⟩

end AnyOrder

/-! ### The obligations of the family -/

/-- Settles O12, by the bytes of the normalized `D`. -/
theorem bswapReversesLowBytes : Obligations.BswapReversesLowBytes := by
  intro w
  exact ⟨decode_byteWord (o := 0x20#8) rfl (by decide), fun s hf => ⟨exec_bswap hf, fun hw => exec_badWidth hf hw⟩⟩

/-- Settles O13: with a little-endian strap normalizing `D` leaves it alone. -/
theorem normSwapsOnBigEndianHost : Obligations.NormSwapsOnBigEndianHost := by
  intro w
  refine ⟨decode_byteWord (o := 0x21#8) rfl (by decide), fun s hf => ⟨fun hw hbe => ?_, fun hw hbe => ?_,
    fun hw => exec_badWidth hf hw⟩⟩
  · have hsame := exec_norm_eq_exec_bswap hf hw hbe
    exact ⟨hsame, hsame ▸ exec_bswap hf hw⟩
  · obtain ⟨v, hv, -⟩ := exists_width hw
    have hd : normalizeD s.hostBE v.bytes s.d = s.d := by rw [State.hostBE, hbe, normalizeD_false]
    refine ((Effect.norm_normalizeD hv).exec_next hf nofun).trans ?_
    rw [hd]
    rfl

/-- Settles O14, by the address each byte comes from. -/
theorem normmReversesFieldInPlace : Obligations.NormmReversesFieldInPlace := by
  intro w
  refine ⟨decode_byteWord (o := 0x22#8) rfl (by decide), fun s hf => ⟨fun hw hb hbe => ?_, fun hw hb hbe => ?_,
    exec_field_fails hf rfl rfl⟩⟩
  · obtain ⟨v, hv, hbytes⟩ := exists_width hw
    obtain ⟨t, hexec, ht, hbyte⟩ := exec_normm hf hv (hbytes ▸ hb)
    refine ⟨t, hexec, ht, fun a => (hbyte a).trans ?_⟩
    rw [← apply_ite s.bufByte, swapInField, State.hostBE, hbe, hbytes]
    simp only [true_and, Nat.add_zero]
    refine congrArg s.bufByte (if_ctx_congr Iff.rfl (fun ha => ?_) fun _ => rfl)
    omega
  · obtain ⟨v, hv, hbytes⟩ := exists_width hw
    refine ((Effect.normm hv (hbytes ▸ hb)).exec_next hf nofun).trans ?_
    rw [State.normalizeField_littleEndian hbe]

/-- Settles O15, by the bytes of the host's own load. -/
theorem ldnLoadsInHostOrder : Obligations.LdnLoadsInHostOrder := by
  intro w
  refine ⟨decode_byteWord (o := 0x23#8) rfl (by decide), fun s hf => ⟨fun hw hb => ?_, exec_field_fails hf rfl rfl⟩⟩
  obtain ⟨v, hv, hbytes⟩ := exists_width hw
  rw [← hbytes] at hb ⊢
  exact ⟨_, (Effect.ldn hv hb).exec_next hf nofun, fun i hi => dByte_nativeRead hi s _ _⟩

/-- Settles O16, by the bytes of the host's own store. -/
theorem stnStoresInHostOrder : Obligations.StnStoresInHostOrder := by
  intro w
  refine ⟨decode_byteWord (o := 0x24#8) rfl (by decide), fun s hf => ⟨fun hw hb => ?_, exec_field_fails hf rfl rfl⟩⟩
  obtain ⟨v, hv, hbytes⟩ := exists_width hw
  rw [← hbytes] at hb ⊢
  obtain ⟨t, hexec, ht, hbyte⟩ := (Effect.stn hv hb).exec_store hf rfl
  exact ⟨t, hexec, ht, fun a => (hbyte a).trans (s.bufByte_nativeWrite_lowBytes _ _ _ a)⟩

/-- Settles O17, by the bytes of a wire load. -/
theorem ldfLoadsWireField : Obligations.LdfLoadsWireField := by
  intro w
  refine ⟨decode_byteWord (o := 0x25#8) rfl (by decide), fun s hf => ⟨fun hw hb => ?_, exec_field_fails hf rfl rfl⟩⟩
  obtain ⟨v, hv, hbytes⟩ := exists_width hw
  rw [← hbytes] at hb ⊢
  exact ⟨_, (Effect.ldf hv hb).exec_next hf nofun, fun i hi => dByte_wireRead hi s _ _⟩

/-- Settles O18, by the bytes of a wire store. -/
theorem stfStoresWireField : Obligations.StfStoresWireField := by
  intro w
  refine ⟨decode_byteWord (o := 0x26#8) rfl (by decide), fun s hf => ⟨fun hw hb => ?_, exec_field_fails hf rfl rfl⟩⟩
  obtain ⟨v, hv, hbytes⟩ := exists_width hw
  rw [← hbytes] at hb ⊢
  obtain ⟨t, hexec, ht, hbyte⟩ := (Effect.stf_storeField hv hb).exec_store hf rfl
  exact ⟨t, hexec, ht, fun a => (hbyte a).trans (s.bufByte_storeField _ a)⟩

/-- Settles O27: the width test comes first in each of the seven. -/
theorem badWidthIsFatal : Obligations.BadWidthIsFatal := by
  intro w s hf h1 h2 h4 h8
  have hw : legalWidth w = false := by simp [legalWidth, h1, h2, h4, h8]
  have hall : ∀ i ∈ [Instr.bswap w, .norm w, .normm w, .ldn w, .stn w, .ldf w, .stf w], i.widthLegal = false := by
    simp [Instr.widthLegal, hw]
  exact fun i hi => exec_badWidth hf (hall i hi)

/-- Settles O49: reversing the bytes of a number twice gives them back. -/
theorem swapIsSelfInverse : Obligations.SwapIsSelfInverse := by
  intro w v hv
  refine ⟨normalizeNat_normalizeNat true hv, ?_, fun be => normalizeNat_normalizeNat be hv⟩
  rintro rfl
  exact (bswapNat_one v).trans (Nat.mod_eq_of_lt hv)

/-- Settles O50: the moves of the bytes undo themselves. -/
theorem swapCommandsTwiceRestore : Obligations.SwapCommandsTwiceRestore := by
  intro w s hf hw
  obtain ⟨v, hv, hbytes⟩ := exists_width hw
  exact ⟨runAll_normalizeD_twice hf nofun fun _ _ => .bswap_normalizeD hv,
    runAll_normalizeD_twice (be := s.hostBE) hf nofun fun _ hbe => hbe ▸ Effect.norm_normalizeD hv,
    fun hb => runAll_normm_normm hf hv (hbytes ▸ hb)⟩

/-- Settles O51; (h) is the field that LDF loads back. -/
theorem fusedAccessesCompose : Obligations.FusedAccessesCompose := by
  intro w s hf hw hb
  obtain ⟨t, h, hstf, hldf, hbyte⟩ := exec_stf_ldf hf hw hb
  obtain ⟨v, hv, hbytes⟩ := exists_width hw
  rw [← hbytes] at hb
  obtain ⟨g, hnormm, hg⟩ := runAll_normm_ldn hf hv hb
  have hldf' := (Effect.ldf hv hb).runAll_cons hf nofun []
  have hstf' := (Effect.stf hv hb).runAll_cons hf nofun []
  exact ⟨_, _, g, h, hldf', (runAll_ldn_norm hf hv hb).trans hldf', hstf',
    (runAll_norm_stn_norm hf hv hb).trans hstf', hnormm, hg,
    (runAll_cons_of_next hstf _).trans (runAll_cons_of_next hldf []), hbyte⟩

/-- Settles O52: the other commands reach `CFG` through wire accesses alone, which are the same on either host. -/
theorem onlyFourCommandsDependOnHost : Obligations.OnlyFourCommandsDependOnHost := by
  refine ⟨fun i s c hi => ?_, twoBytes, ?_⟩
  · obtain ⟨e, he, -⟩ := exec_eq_issue i s
    obtain ⟨t, ht⟩ := s.issue_next e
    exact ⟨t, he.trans ht, exec_withCfg hi (he.trans ht) c⟩
  · simp only [List.forall_mem_cons]
    exact ⟨⟨_, _, rfl, rfl, .inl (by decide)⟩, ⟨_, _, rfl, rfl, .inr ⟨0, by decide⟩⟩,
      ⟨_, _, rfl, rfl, .inl (by decide)⟩, ⟨_, _, rfl, rfl, .inr ⟨0, by decide⟩⟩, nofun⟩

/-- Settles O53: LDF and CKVFY do not depend on the reader's host. -/
theorem frameCrossesHosts : Obligations.FrameCrossesHosts := by
  refine fun s c hf => ⟨fun w hw hb => ?_, fun hb => ?_⟩
  · obtain ⟨t, u, hstf, hldf, hbyte⟩ := exec_stf_ldf hf hw hb
    exact ⟨t, _, hstf, exec_withCfg rfl hldf c, hbyte⟩
  · obtain ⟨t, u, hseal, hckvfy, herr, hrunning, hck⟩ := sealedRangeVerifies s hf hb
    exact ⟨t, _, hseal, exec_withCfg rfl hckvfy c, herr, hrunning, hck⟩

/-- Settles O56: fields that lie apart may be normalized in any order, and twice undoes it. -/
theorem structNormalizationAnyOrder : Obligations.StructNormalizationAnyOrder := by
  intro k s base is hf his hb
  obtain ⟨t, -, hmoves, hrun⟩ := runAll_normalizeFields hf his hb
  refine ⟨t, is.append_nil ▸ hrun [], hmoves.running, fun fs hp => ?_, ?_⟩
  · obtain ⟨js, hjs⟩ := exists_normalizeFields_iff.2 fun f hfs =>
      exists_normalizeFields_iff.1 ⟨is, his⟩ f (hp.mem_iff.1 hfs)
    obtain ⟨u, -, hmoves', hrun'⟩ := runAll_normalizeFields hf hjs fun f hfs => hb f (hp.mem_iff.1 hfs)
    refine ⟨js, u, hjs, js.append_nil ▸ hrun' [], fun a => ?_⟩
    rw [hmoves'.bytes, hmoves.bytes, swapInFields_perm _ _ hp.symm (fieldTable_apart k)]
  · obtain ⟨u, -, hmoves', hrun'⟩ := runAll_normalizeFields hmoves.running his (hmoves.bufSize ▸ hb)
    rw [hmoves.hostBE] at hmoves'
    refine ⟨u, is.append_nil ▸ hrun' [], fun a => ?_⟩
    rw [(hmoves.trans hmoves').bytes, Function.comp_apply, swapInFields_involutive _ _ (fieldTable_apart k)]

end Sys2Proof.Machine

/-! PROOFS of the family spec/42_system.md: the words of SETOFF, SETLEN and SETD, the lanes of `D`, and the next state of
NOP, SETOFF, SETLEN and SETD. -/

namespace Sys2Proof.Machine

/-! ### Words as the or of their fields (R46, R48, R49) -/

/-- Two fields side by side, each in its place in one word. -/
theorem setWidth_append_eq_or {m n v : Nat} (x : BitVec m) (y : BitVec n) :
    (x ++ y).setWidth v = (x.setWidth v <<< n) ||| y.setWidth v := by
  refine BitVec.eq_of_getLsbD_eq fun i hi => ?_
  simp only [BitVec.getLsbD_setWidth, BitVec.getLsbD_append, BitVec.getLsbD_or, BitVec.getLsbD_shiftLeft, hi]
  by_cases hlow : i < n
  · simp [hlow]
  · have hnone : y.getLsbD i = false := BitVec.getLsbD_of_ge y i (Nat.not_lt.1 hlow)
    have hfield : i - n < v := by omega
    simp [hlow, hnone, hfield]

/-- A word is its opcode in bits 31:24 and its operands in bits 23:0. -/
theorem encode_eq_or (i : Instr) : encode i = (i.opcode.setWidth 32 <<< 24) ||| i.operandBits.setWidth 32 :=
  (BitVec.setWidth_eq _).symm.trans (setWidth_append_eq_or i.opcode i.operandBits)

theorem encode_setoff (imm : BitVec 24) : encode (.setoff imm) = 0x01000000#32 ||| imm.setWidth 32 := by
  rw [encode_eq_or, Instr.opcode, Instr.operandBits]
  rfl

theorem encode_setlen (imm : BitVec 24) : encode (.setlen imm) = 0x02000000#32 ||| imm.setWidth 32 := by
  rw [encode_eq_or, Instr.opcode, Instr.operandBits]
  rfl

theorem encode_setd (k : BitVec 2) (imm : BitVec 16) :
    encode (.setd k imm) = 0x03000000#32 ||| (k.setWidth 32 <<< 16) ||| imm.setWidth 32 := by
  have hlane : (0#6 ++ k).setWidth 32 = k.setWidth 32 := by
    revert k
    decide
  rw [encode_eq_or, Instr.opcode, Instr.operandBits, setWidth_append_eq_or, hlane, BitVec.or_assoc]
  rfl

/-! ### The lanes of `D` (R53) -/

/-- Writing lane `k` gives that lane its value and leaves the others. -/
theorem extractLsb'_withLane (k : BitVec 2) (d : BitVec 64) (imm : BitVec 16) {j : Nat} (hj : j < 4) :
    (withLane k d imm).extractLsb' (16 * j) 16 = if j = k.toNat then imm else d.extractLsb' (16 * j) 16 := by
  refine BitVec.eq_of_getLsbD_eq fun n hn => ?_
  have hlane : (16 * j + n) / 16 = j := by omega
  rw [BitVec.getLsbD_extractLsb', decide_eq_true hn, Bool.true_and, getLsbD_withLane k d imm (by omega), hlane]
  split_ifs with hk
  · rw [← hk, Nat.add_sub_cancel_left]
  · rw [BitVec.getLsbD_extractLsb', decide_eq_true hn, Bool.true_and]

/-! ### The obligations of the family -/

/-- Settles O1: NOP has no effect of its own, and a fatal state discards it. -/
theorem nopOnlyClearsErr : Obligations.NopOnlyClearsErr :=
  ⟨decode_encode .nop, fun _ => ⟨fun hf => Effect.nop.exec_next hf nofun, fun hf => exec_fatal hf .nop⟩⟩

/-- Settles O2: the effect of SETOFF is the write of `OFF`. -/
theorem setoffWritesOff : Obligations.SetoffWritesOff := by
  intro imm
  exact ⟨encode_setoff imm ▸ decode_encode (.setoff imm), fun _ hf => (Effect.setoff imm).exec_next hf nofun⟩

/-- Settles O3: the effect of SETLEN is the write of `LEN`. -/
theorem setlenWritesLen : Obligations.SetlenWritesLen := by
  intro imm
  exact ⟨encode_setlen imm ▸ decode_encode (.setlen imm), fun _ hf => (Effect.setlen imm).exec_next hf nofun⟩

/-- Settles O4: the effect of SETD is the write of one lane. -/
theorem setdWritesOneLane : Obligations.SetdWritesOneLane := by
  intro k imm
  refine ⟨encode_setd k imm ▸ decode_encode (.setd k imm), fun s hf => ?_⟩
  exact ⟨withLane k s.d imm, (Effect.setd k imm).exec_next hf nofun, fun _ hj => extractLsb'_withLane k s.d imm hj⟩

end Sys2Proof.Machine

/-! PROOFS of the family spec/60_exceptions.md: what becomes of a command word, the three ways a command ends and the
order of the conditions that end it, and a buffer of no bytes. -/

namespace Sys2Proof.Machine

open Sys2Proof.Claims

/-! ### A command word (R109, R112) -/

section Step

variable {s : State} {c : CmdWord} {q : List HostAction}

/-- While FATAL is 1 a command word, legal or not, is taken and discarded (R109 line 1). -/
theorem step_fatal (hf : s.isFatal = true) (hp : s.pending = .command c :: q) :
    step s = .next ((s.setPending q).setPc (s.pc + 1)) := by
  have htaken : ((s.setPending q).setPc (s.pc + 1)).isFatal = true := hf
  cases hd : decode c with
  | ok i => exact (step_command hp hd).trans (exec_fatal htaken i)
  | error e => exact (step_illegal hp hd).trans (State.issue_fatal htaken _)

/-- A word that is not legal fits no row of the opcode map (R55). -/
theorem fits_no_row_of_not_legal (h : legalWord c = false) : ∀ r ∈ opcodeRows, c &&& r.mask ≠ r.value :=
  fun _ hr heq => absurd (Laws.EncodingIsLegal.legal_of_row hr (beq_iff_eq.2 heq)) (ne_true_of_eq_false h)

/-- How many bytes a command needs depends on the state through `LEN` alone (R37). -/
theorem needs_congr {t : State} (hlen : s.len = t.len) (i : Instr) : needs s i = needs t i := by
  unfold needs
  rw [hlen]

end Step

/-! ### How a command ends (R106, R107) -/

section Ending

variable {s u : State} {i : Instr} {e : Ending}

/-- Writing 0, 1 or 2 to `ERR` after the body of a command leaves FATAL and FCAUSE as they were. -/
theorem State.setErr_status {n : BitVec 4} (hst : u.st = s.st) (hf : s.isFatal = false)
    (hn : n = 0#4 ∨ n = 1#4 ∨ n = 2#4) :
    (u.setErr n).isFatal = false ∧ stCause (u.setErr n).st = stCause s.st ∧
      (stErr (u.setErr n).st = 0#4 ∨ stErr (u.setErr n).st = 1#4 ∨ stErr (u.setErr n).st = 2#4) := by
  rw [State.isFatal, State.setErr_st, stFatal_stWithErr, stCause_stWithErr, stErr_stWithErr, hst]
  exact ⟨hf, rfl, hn⟩

/-- A command that executes ends with `ERR` 0, 1 or 2, FATAL still 0 and FCAUSE kept, or its width is illegal. -/
theorem Ends.conclude_threeWays (hends : Ends s i e) (hf : s.isFatal = false) :
    ((s.conclude e).isFatal = false ∧ stCause (s.conclude e).st = stCause s.st ∧
      (stErr (s.conclude e).st = 0#4 ∨ stErr (s.conclude e).st = 1#4 ∨ stErr (s.conclude e).st = 2#4)) ∨
    (i.widthLegal = false ∧ s.conclude e = { s with st := (s.st &&& 0x0F#8) ||| 0x90#8 }) := by
  cases hends with
  | done hu _ => exact .inl (State.setErr_status hu.st_eq hf (.inl rfl))
  | mismatch hu _ _ => exact .inl (State.setErr_status hu.st_eq hf (.inr (.inr rfl)))
  | tooSmall _ _ => exact .inl (State.setErr_status rfl hf (.inr (.inl rfl)))
  | badWidth hw => exact .inr ⟨hw, congrArg s.setSt (stWithFatal_badWidth s.st)⟩

end Ending

/-! ### A buffer of no bytes (R121) -/

section EmptyBuffer

variable {s : State}

theorem rangeBytes_of_len_zero (hlen : s.len = 0#24) : rangeBytes s = [] := by
  rw [rangeBytes, hlen]
  rfl

/-- Without a chunk the seed is folded once, to two bytes 0xFF (R62). -/
theorem fletcher_nil : fletcher [] = 0xFFFF#16 := by decide

/-- A byte, or an offset that is not 0, lies beyond a buffer of no bytes. -/
theorem outside_empty {n : Nat} (hsize : s.bufSize = 0) (h : 0 < n ∨ s.off ≠ 0#24) : s.bufSize < s.off.toNat + n := by
  rw [hsize]
  obtain hn | hoff := h
  · exact Nat.add_pos_right _ hn
  · exact Nat.add_pos_left (BitVec.toNat_pos_of_ne_zero hoff) _

end EmptyBuffer

/-! ### The obligations of the family -/

/-- Settles O29: the tests are made in this order, and CKVFY alone compares after them. -/
theorem conditionsHavePriority : Obligations.ConditionsHavePriority := by
  intro s c q hp t
  refine ⟨fun hf => step_fatal hf hp, fun hf hillegal => ?_, fun hf i hd => ?_⟩
  · exact illegalWordIsFatal.2 s c q hp hf (fits_no_row_of_not_legal hillegal)
  · have hstep : step s = exec i t := step_command hp hd
    have hrunning : t.isFatal = false := hf
    have hneeds : needs s i = needs t i := needs_congr rfl i
    rw [hstep, hneeds]
    exact ⟨exec_badWidth hrunning, fun hw => ⟨fun n => exec_bufferTooSmall hrunning hw, exec_of_needs_inside hrunning hw⟩⟩

/-- Settles O30, by the endings of a command's body. -/
theorem commandEndsOneOfThreeWays : Obligations.CommandEndsOneOfThreeWays := by
  intro i s hf
  obtain ⟨e, hexec, hends⟩ := exec_eq_issue i s
  exact ⟨s.conclude e, hexec.trans (State.issue_running hf e), hends.conclude_threeWays hf⟩

/-- Settles O60: the empty range at 0 passes the bounds test, and what lies beyond 0 does not. -/
theorem emptyBufferIsLegal : Obligations.EmptyBufferIsLegal := by
  intro s hf hsize
  refine ⟨fun hoff hlen => ?_, fun i n hn hbeyond hw => exec_bufferTooSmall hf hw hn (outside_empty hsize hbeyond)⟩
  have hb : s.off.toNat + s.len.toNat ≤ s.bufSize := by
    rw [hoff, hlen]
    exact Nat.zero_le _
  have hckrange := ((ckrangeIsFletcherOfRange.2 s hf).1 hb).1
  have hckabs := (ckabsAbsorbsRange.2 s hf).1 hb
  rw [rangeBytes_of_len_zero hlen] at hckrange hckabs
  rw [fletcher_nil] at hckrange
  exact ⟨hckrange, hckabs⟩

/-- Settles O23: the word is the head of the host's list. -/
theorem stepRunsDecodedCommand : Obligations.StepRunsDecodedCommand := fun _ _ _ _ hp hd => step_command hp hd

/-- Settles O26: the wrapper discards what is issued, a command or an illegal word. -/
theorem fatalDiscardsCommands : Obligations.FatalDiscardsCommands :=
  fun _ hf => ⟨exec_fatal hf, fun _ _ hp => step_fatal hf hp⟩

end Sys2Proof.Machine

/-! PROOFS of the family spec/70_reset_and_hazards.md: a run of command words, and the last outcome of an expansion. -/

namespace Sys2Proof.Machine

open Sys2Proof.Claims

/-! ### A run of command words (R17, R134) -/

section Run

variable {s t : State} {c : CmdWord} {q : List HostAction}

/-- A command word, legal or not, is taken from the host's list and counted, and clears no FATAL. -/
theorem step_takes_command (hp : s.pending = .command c :: q) :
    ∃ t, step s = .next t ∧ t.pending = q ∧ t.pc = s.pc + 1 ∧ (s.isFatal = true → t.isFatal = true) := by
  cases hf : s.isFatal with
  | true => exact ⟨_, step_fatal hf hp, rfl, rfl, fun _ => hf⟩
  | false =>
    have htaken : ((s.setPending q).setPc (s.pc + 1)).isFatal = false := hf
    cases hd : decode c with
    | ok i =>
      obtain ⟨e, hexec, -⟩ := exec_eq_issue i ((s.setPending q).setPc (s.pc + 1))
      have hnext := hexec.trans (State.issue_running htaken e)
      have hkept := exec_keepsUnnamed hnext
      exact ⟨_, (step_command hp hd).trans hnext, hkept.pending, hkept.pc, nofun⟩
    | error r => exact ⟨_, (step_illegal hp hd).trans (State.issue_running htaken _), rfl, rfl, nofun⟩

theorem core_run_of_step (h : step s = .next t) (n : Nat) : Host.Core.run core (n + 1) s = Host.Core.run core n t := by
  simp only [Host.Core.run]
  rw [show core.step s = .next t from h]

theorem State.completed_of_faulted (h : s.faulted = true) : s.completed = false := by
  rw [State.completed, h, Bool.not_true, Bool.and_false]

end Run

/-! ### Outcomes of commands in a row (R129) -/

section Outcomes

variable {s : State} {i : Instr} {n : Nat}

/-- A memory command with a legal width fails exactly when bytes it needs do not exist, unless it compares (R37). -/
theorem exec_err_iff_outside (hf : s.isFatal = false) (hw : i.widthLegal = true) (hi : i ≠ .ckvfy)
    (hn : needs s i = some n) :
    ∃ t, exec i s = .next t ∧ t.isFatal = false ∧ (stErr t.st ≠ 0#4 ↔ s.bufSize < s.off.toNat + n) := by
  by_cases hb : s.off.toNat + n ≤ s.bufSize
  · obtain ⟨t, hexec, hrunning, herr⟩ := exec_of_needs_inside hf hw fun m hm => Option.some.inj (hn.symm.trans hm) ▸ hb
    have hzero : stErr t.st = 0#4 := herr.resolve_right fun h => hi h.2
    exact ⟨t, hexec, hrunning, iff_of_false (absurd hzero) (Nat.not_lt.2 hb)⟩
  · have hsmall : s.bufSize < s.off.toNat + n := Nat.not_le.1 hb
    have hexec := exec_bufferTooSmall hf hw hn hsmall
    rw [← stWithErr_bufferTooSmall] at hexec
    refine ⟨_, hexec, ?_, iff_of_true ?_ hsmall⟩
    · exact (stFatal_stWithErr _ _).trans hf
    · rw [State.setSt_st, stErr_stWithErr]
      decide

/-- `SETOFF o` and then NORMM fail exactly when the field at `o` does not lie inside the buffer. -/
theorem runAll_setoff_normm_err {w : BitVec 8} (hf : s.isFatal = false) (hw : legalWidth w = true) (o : Offset) :
    ∃ t, runAll [.setoff o, .normm w] s = some t ∧ t.isFatal = false ∧ t.bufSize = s.bufSize ∧
      (stErr t.st ≠ 0#4 ↔ s.bufSize < o.toNat + w.toNat) := by
  have hoff : Effect s (.setoff o) (s.setOff o) := .setoff o
  obtain ⟨t, hexec, hrunning, herr⟩ := exec_err_iff_outside (i := .normm w) (hoff.running hf 0#4) hw nofun rfl
  exact ⟨t, (hoff.runAll_cons hf nofun _).trans (runAll_cons_of_next hexec []), hrunning,
    (exec_keepsUnnamed hexec).bufSize, herr⟩

end Outcomes

/-! ### The obligations of the family -/

/-- Settles O58, by induction on the words: each is taken by one step, and FATAL stays once it is 1. -/
theorem runOfCommandsEnds : Obligations.RunOfCommandsEnds := by
  intro s cs
  induction cs generalizing s with
  | nil =>
    intro hp
    refine ⟨s, rfl, by rw [State.ended, hp]; rfl, rfl, fun m u hm hrun hfault => ?_⟩
    obtain rfl : m = 0 := Nat.le_zero.1 hm
    obtain rfl : s = u := Host.Outcome.next.inj hrun
    exact State.completed_of_faulted hfault
  | cons c cs ih =>
    intro hp
    obtain ⟨s', hstep, hp', hpc', hfatal⟩ := step_takes_command hp
    obtain ⟨t, hrun, hended, hpc, hlater⟩ := ih s' hp'
    refine ⟨t, (core_run_of_step hstep cs.length).trans hrun, hended, ?_, fun m u hm hrunu hfault => ?_⟩
    · rw [hpc, hpc', List.length_cons, Nat.add_assoc, Nat.add_comm 1]
    · cases m with
      | zero =>
        obtain rfl : s = u := Host.Outcome.next.inj hrunu
        exact hlater 0 s' (Nat.zero_le _) rfl (hfatal hfault)
      | succ m => exact hlater m u (Nat.le_of_succ_le_succ hm) ((core_run_of_step hstep m).symm.trans hrunu) hfault

/-- Settles O59: the last command needs bytes at least as far into the buffer as the earlier one. -/
theorem lastOutcomeIsEnough : Obligations.LastOutcomeIsEnough := by
  refine ⟨fun s o n hf => ?_, fun s o p hf hop => ?_⟩
  · have hrange : (s.setRange o n).isFatal = false :=
      (stFatal_stWithErr _ _).trans ((stFatal_stWithErr _ _).trans hf)
    obtain ⟨u, hckrange, hu, herru⟩ := exec_err_iff_outside (i := .ckrange) hrange rfl nofun rfl
    obtain ⟨t, hckput, -, herrt⟩ := exec_err_iff_outside (i := .ckput) hu rfl nofun rfl
    have hkept := exec_keepsUnnamed hckrange
    rw [hkept.off rfl, hkept.len rfl, hkept.bufSize] at herrt
    refine ⟨u, t, (runAll_setRange hf o n _).trans (runAll_cons_of_next hckrange []), hckput, fun hfail => ?_⟩
    exact herrt.2 (Nat.lt_add_right 2 (herru.1 hfail))
  · obtain ⟨u, hrunu, hu, hsize, herru⟩ := runAll_setoff_normm_err hf (w := 2#8) rfl o
    obtain ⟨t, hrunt, -, -, herrt⟩ := runAll_setoff_normm_err hu (w := 4#8) rfl p
    refine ⟨u, t, hrunu, hrunt, fun hfail => herrt.2 ?_⟩
    calc u.bufSize
      _ = s.bufSize := hsize
      _ < o.toNat + 2 := herru.1 hfail
      _ ≤ p.toNat + 4 := Nat.add_le_add hop (by decide)

end Sys2Proof.Machine
